-- ==== Sys2Proof/Word.lean ====
section
/-! DEFINITION. The words the block moves. A register is a bit vector of exactly its own width (10_state.md R30);
sums, comparisons and clamps are made on `Nat` and `Int` (00_scope.md R17) and narrowed at the end. -/

namespace Sys2Proof

/-- One byte: a buffer byte, a store byte, an opcode. -/
abbrev Byte := BitVec 8

/-- The data of one bus transfer, and the widest register (20_memory.md R70, R72). -/
abbrev BusWord := BitVec 16

/-- A CRC value: 7 bits, so its top bit as a byte is always clear (10_state.md R35). -/
abbrev Crc7 := BitVec 7

/-- The sentinel of the history store, and the frame terminator (00_scope.md R13). -/
abbrev byteFF : Byte := 0xFF

end Sys2Proof
end

