-- ==== Sys2Proof/Config.lean ====
section
/-! DEFINITION. What an instance of the block fixes (00_scope.md R5 to R14), and the free values: constants with no
body, so that nothing can be proved of what they are. -/

namespace Sys2Proof

/-- The open parameters of one instance of the block, fixed before reset (00_scope.md section 3, 70_reset_and_hazards.md
R301). The record travels in `Machine.State`; no step changes it (log 8). -/
structure Params where
  /-- `FULL_CRC_SEED`, R5. -/
  fullCrcSeed : Crc7
  /-- `TEMP_BIAS`, R7, in 1/16 C. -/
  tempBias : Nat
  /-- `SMOOTH_SHIFT`, R8, written `k` in the rules. -/
  smoothShift : Nat
  /-- `CMP_LOW_C`, R9, in whole degrees. -/
  cmpLowC : Nat
  /-- `CMP_HIGH_C`, R9, in whole degrees. -/
  cmpHighC : Nat
  /-- `UNSET_INT`, R10, as a 16-bit two's-complement pattern. -/
  unsetInt : BusWord
  /-- `STATS_BASE`, R11. -/
  statsBase : Nat
deriving DecidableEq, Repr

/-- The ranges the spec allows for the parameters: the constraints of R5 and R7 to R11. -/
abbrev Params.wf (p : Params) : Prop :=
  p.fullCrcSeed ≠ 0 ∧
  p.tempBias ≤ 447 ∧
  (1 ≤ p.smoothShift ∧ p.smoothShift ≤ 8) ∧
  (p.cmpLowC < p.cmpHighC ∧ p.cmpHighC ≤ 100 ∧ p.cmpHighC - p.cmpLowC ≤ 9) ∧
  (p.unsetInt.toInt < 0 ∨ 1600 < p.unsetInt.toInt) ∧
  p.statsBase + 120 ≤ 65536

/-- The default column of R5 to R11, used by every vector of 95_test_vectors.md. -/
def Params.default : Params where
  fullCrcSeed := 0x7F
  tempBias := 320
  smoothShift := 3
  cmpLowC := 16
  cmpHighC := 24
  unsetInt := 0x7FFF
  statsBase := 0

/-- `MIN_CRC_SEED`, fixed by the document (R6). -/
def minCrcSeed : Crc7 := 0x00

/-- `BUF_SIZE`, fixed for this hardware (R12). -/
abbrev bufSize : Nat := 64

/-- FREE VALUE (log 5). Sample number `n` of the `RND` port where no test bench drives it: any byte, a fresh one per
draw (00_scope.md R21, 93_implementation_defined.md U4). -/
opaque Config.rndFree : Nat → Byte

/-- FREE VALUE (log 6). What buffer offset `off` holds after reset number `epoch` until the host or an encode writes it:
any byte (10_state.md R56, 93_implementation_defined.md U3). The arguments are the reset number and the offset. -/
opaque Config.bufFree : Nat → Nat → Byte

end Sys2Proof
end

