-- ==== Sys2Proof/Syntax.lean ====
section
/-! DEFINITION. What the block can be told: the commands of 30_encoding.md R101 and R102, the frame bytes of R110, the
host accesses of R103 and R104, and the lines a host issues. One constructor of `Instr` per row of opcode_table.json. -/

namespace Sys2Proof

/-- A command, as `CMD` decodes it: the fourteen of 30_encoding.md R101 and the reserved rest of R102. -/
inductive Opcode
  | nop | crc7Seed | crc7Upd | mtpEnc | mtpDec | fsmEnc | fsmDec | tcCmp | tcExp
  | stSmooth | stWarmsh | stCommit | stGet | stZap
  | reserved (op : Byte)
deriving DecidableEq, Repr

/-- The eight byte classes of the two frames (30_encoding.md R110). -/
inductive WireClass
  | fullHeader | idByte | tpByte0 | tpByte1 | flags | ambientLight | crc | terminator
deriving DecidableEq, Repr

/-- A frame byte read as one of the classes of R110, with its fields (R112 to R118). -/
inductive WireByte
  /-- `0111 0PHS`: ID present, ID high half, secure (R112). -/
  | fullHeader (idp idh sec : Bool)
  /-- `0iii iiii` (R113). -/
  | idByte (id : BitVec 7)
  /-- `010L tttt`: low-power flag, biased temperature bits 3:0 (R114). -/
  | tpByte0 (pl : Bool) (lo : BitVec 4)
  /-- `0ttt tttt`: biased temperature bits 10:4 (R114). -/
  | tpByte1 (hi : BitVec 7)
  /-- `0110 A0oo`: ambient light present, occupancy code (R115). -/
  | flags (alp : Bool) (occ : BitVec 2)
  /-- `aaaa aaaa` (R116). -/
  | ambientLight (level : Byte)
  /-- `0ccc cccc` (R117). -/
  | crc (c : Crc7)
  /-- `1111 1111` (R118). -/
  | terminator
deriving DecidableEq, Repr

/-- One constructor per row of opcode_table.json. A command has no operand fields (R100). A `wire…` row is a byte of a
frame; as an instruction it is that byte being put into the frame buffer by the host at the offset `off`, the way such
a byte reaches the block (10_state.md R49, the `LDB` line of R105; log 2). `scriptWr` and `scriptRd` are the host
accesses of R104. -/
inductive Instr
  | nop
  | crc7Seed
  | crc7Upd
  | mtpEnc
  | mtpDec
  | fsmEnc
  | fsmDec
  | tcCmp
  | tcExp
  | stSmooth
  | stWarmsh
  | stCommit
  | stGet
  | stZap
  | reserved (op : Byte)
  | wireFullHeader (off : BitVec 6) (idp idh sec : Bool)
  | wireIdByte (off : BitVec 6) (id : BitVec 7)
  | wireTpByte0 (off : BitVec 6) (pl : Bool) (lo : BitVec 4)
  | wireTpByte1 (off : BitVec 6) (hi : BitVec 7)
  | wireFlags (off : BitVec 6) (alp : Bool) (occ : BitVec 2)
  | wireAmbientLight (off : BitVec 6) (level : Byte)
  | wireCrc (off : BitVec 6) (c : Crc7)
  | wireTerminator (off : BitVec 6)
  | scriptWr (addr : Byte) (data : BusWord)
  | scriptRd (addr : Byte)
deriving DecidableEq, Repr

/-- The command row of a decoded opcode. -/
def Opcode.instr : Opcode → Instr
  | .nop => .nop
  | .crc7Seed => .crc7Seed
  | .crc7Upd => .crc7Upd
  | .mtpEnc => .mtpEnc
  | .mtpDec => .mtpDec
  | .fsmEnc => .fsmEnc
  | .fsmDec => .fsmDec
  | .tcCmp => .tcCmp
  | .tcExp => .tcExp
  | .stSmooth => .stSmooth
  | .stWarmsh => .stWarmsh
  | .stCommit => .stCommit
  | .stGet => .stGet
  | .stZap => .stZap
  | .reserved op => .reserved op

/-- The wire row of a frame byte that stands at buffer offset `off`. -/
def WireByte.instr (off : BitVec 6) : WireByte → Instr
  | .fullHeader idp idh sec => .wireFullHeader off idp idh sec
  | .idByte id => .wireIdByte off id
  | .tpByte0 pl lo => .wireTpByte0 off pl lo
  | .tpByte1 hi => .wireTpByte1 off hi
  | .flags alp occ => .wireFlags off alp occ
  | .ambientLight level => .wireAmbientLight off level
  | .crc c => .wireCrc off c
  | .terminator => .wireTerminator off

/-- One line of a host script (30_encoding.md R103): a command by its opcode, a bus access by its 32-bit script word
(R104), or a frame byte loaded into the buffer (the one-byte `LDB` of R105) under the class it is sent as. -/
inductive HostLine
  | command (op : Byte)
  | access (word : BitVec 32)
  | frameByte (cls : WireClass) (off : BitVec 6) (byte : Byte)
deriving DecidableEq, Repr

/-- What the outside world does next to the block: a line of the host, a write to the store by its other user between
two commands (20_memory.md R82, 70_reset_and_hazards.md R313), or a reset (R300). -/
inductive HostEvent
  | line (l : HostLine)
  | storeWrite (addr : BitVec 16) (value : Byte)
  | reset
deriving DecidableEq, Repr

end Sys2Proof
end

