-- ==== Sys2Proof/WellFormed.lean ====
section
/-! DEFINITION. Which terms of `Instr` the spec gives an encoding: a reserved opcode is one of the 242 of 30_encoding.md
R102, and a frame byte holds only values R112 and R116 allow on the wire. -/

namespace Sys2Proof

/-- The reserved opcode ranges, as 30_encoding.md R102 lists them. -/
def reservedRanges : List (Nat × Nat) :=
  [(0x01, 0x0F), (0x12, 0x1F), (0x22, 0x2F), (0x32, 0x3F), (0x42, 0x4F), (0x55, 0x5F), (0x60, 0xFF)]

/-- The opcode is one of the 242 of R102. -/
def isReservedOpcode (op : Byte) : Bool :=
  reservedRanges.any fun r => r.1 ≤ op.toNat && op.toNat ≤ r.2

/-- Legal field values of a frame byte: `SEC` clear, `IDH` only with `IDP` (R112, R120 (a), (c)); an ambient-light level
of 0x01 to 0xFE (R116). -/
def WireByte.wf : WireByte → Bool
  | .fullHeader idp idh sec => !sec && (idp || !idh)
  | .ambientLight level => level != 0x00 && level != byteFF
  | .idByte _ | .tpByte0 _ _ | .tpByte1 _ | .flags _ _ | .crc _ | .terminator => true

/-- Well-formed instructions: the terms some encoding of the spec stands for. An ill-formed frame byte can still be put
into the buffer (`Machine.exec` gives it its effect); it is `FSM.DEC` that rejects it. -/
def Instr.wf : Instr → Bool
  | .reserved op => isReservedOpcode op
  | .wireFullHeader _ idp idh sec => (WireByte.fullHeader idp idh sec).wf
  | .wireAmbientLight _ level => (WireByte.ambientLight level).wf
  | .nop | .crc7Seed | .crc7Upd | .mtpEnc | .mtpDec | .fsmEnc | .fsmDec | .tcCmp | .tcExp
  | .stSmooth | .stWarmsh | .stCommit | .stGet | .stZap
  | .wireIdByte _ _ | .wireTpByte0 _ _ _ | .wireTpByte1 _ _ | .wireFlags _ _ _ | .wireCrc _ _
  | .wireTerminator _ | .scriptWr _ _ | .scriptRd _ => true

end Sys2Proof
end

