-- ==== Sys2Proof/Decode.lean ====
section
/-! DEFINITION. From bits to instructions, and back. Decoding is total and rejects by name. The opcode map is
30_encoding.md R101, the frame bytes R110 to R118, the script words R104. -/

namespace Sys2Proof

/-- Why a host line is no instruction. -/
inductive DecodeError
  /-- A 32-bit word that is neither form of 30_encoding.md R104. -/
  | notAScriptWord
  /-- A frame byte whose fixed bits are not those of the class it is sent as (R110). -/
  | notOfItsClass
deriving DecidableEq, Repr

/-- The opcode map of R101; every other value is reserved (R102). -/
def decodeOpcode (op : Byte) : Opcode :=
  match op.toNat with
  | 0x00 => .nop
  | 0x10 => .crc7Seed
  | 0x11 => .crc7Upd
  | 0x20 => .mtpEnc
  | 0x21 => .mtpDec
  | 0x30 => .fsmEnc
  | 0x31 => .fsmDec
  | 0x40 => .tcCmp
  | 0x41 => .tcExp
  | 0x50 => .stSmooth
  | 0x51 => .stWarmsh
  | 0x52 => .stCommit
  | 0x53 => .stGet
  | 0x54 => .stZap
  | _ => .reserved op

/-- The `mask` column of the table of R110. -/
def wireMask : WireClass → Byte
  | .fullHeader => 0xF8
  | .idByte => 0x80
  | .tpByte0 => 0xE0
  | .tpByte1 => 0x80
  | .flags => 0xF4
  | .ambientLight => 0x00
  | .crc => 0x80
  | .terminator => 0xFF

/-- The `match` column of the table of R110. -/
def wireMatch : WireClass → Byte
  | .fullHeader => 0x70
  | .idByte => 0x00
  | .tpByte0 => 0x40
  | .tpByte1 => 0x00
  | .flags => 0x60
  | .ambientLight => 0x00
  | .crc => 0x00
  | .terminator => 0xFF

/-- The byte has the class's fixed bits: `byte & mask = match` (R110). -/
def isOfClass (cls : WireClass) (b : Byte) : Bool := b &&& wireMask cls == wireMatch cls

/-- The field bits of a byte, by the pictures of R110 (R112 to R118). -/
def wireFields (cls : WireClass) (b : Byte) : WireByte :=
  match cls with
  | .fullHeader => .fullHeader (b.getLsbD 2) (b.getLsbD 1) (b.getLsbD 0)
  | .idByte => .idByte (b.extractLsb' 0 7)
  | .tpByte0 => .tpByte0 (b.getLsbD 4) (b.extractLsb' 0 4)
  | .tpByte1 => .tpByte1 (b.extractLsb' 0 7)
  | .flags => .flags (b.getLsbD 3) (b.extractLsb' 0 2)
  | .ambientLight => .ambientLight b
  | .crc => .crc (b.extractLsb' 0 7)
  | .terminator => .terminator

/-- A byte read as one class: its fields, if it has the class's fixed bits. -/
def decodeWire (cls : WireClass) (b : Byte) : Option WireByte :=
  if isOfClass cls b then some (wireFields cls b) else none

/-- A host script word (R104): bit 31 for a write, bits 30:24 zero, address in 23:16, data in 15:0 (zero for a read). -/
def decodeAccess (w : BitVec 32) : Option Instr :=
  if w.extractLsb' 24 8 = 0x80#8 then some (.scriptWr (w.extractLsb' 16 8) (w.extractLsb' 0 16))
  else if w.extractLsb' 24 8 = 0x00#8 ∧ w.extractLsb' 0 16 = 0#16 then some (.scriptRd (w.extractLsb' 16 8))
  else none

/-- The decoder: total on every host line, rejecting by name. -/
def decode : HostLine → Except DecodeError Instr
  | .command op => .ok (decodeOpcode op).instr
  | .access w =>
    match decodeAccess w with
    | some i => .ok i
    | none => .error .notAScriptWord
  | .frameByte cls off b =>
    match decodeWire cls b with
    | some x => .ok (x.instr off)
    | none => .error .notOfItsClass

/-- The opcode of a command (R101). -/
def encodeOpcode : Opcode → Byte
  | .nop => 0x00
  | .crc7Seed => 0x10
  | .crc7Upd => 0x11
  | .mtpEnc => 0x20
  | .mtpDec => 0x21
  | .fsmEnc => 0x30
  | .fsmDec => 0x31
  | .tcCmp => 0x40
  | .tcExp => 0x41
  | .stSmooth => 0x50
  | .stWarmsh => 0x51
  | .stCommit => 0x52
  | .stGet => 0x53
  | .stZap => 0x54
  | .reserved op => op

/-- The byte of a class with given fields, bit 7 first, by the pictures of R110. -/
def encodeWire : WireByte → Byte
  | .fullHeader idp idh sec => 0b01110#5 ++ BitVec.ofBool idp ++ BitVec.ofBool idh ++ BitVec.ofBool sec
  | .idByte id => 0#1 ++ id
  | .tpByte0 pl lo => 0b010#3 ++ BitVec.ofBool pl ++ lo
  | .tpByte1 hi => 0#1 ++ hi
  | .flags alp occ => 0b0110#4 ++ BitVec.ofBool alp ++ 0#1 ++ occ
  | .ambientLight level => level
  | .crc c => 0#1 ++ c
  | .terminator => 0xFF

/-- The class of a frame byte. -/
def wireClassOf : WireByte → WireClass
  | .fullHeader _ _ _ => .fullHeader
  | .idByte _ => .idByte
  | .tpByte0 _ _ => .tpByte0
  | .tpByte1 _ => .tpByte1
  | .flags _ _ => .flags
  | .ambientLight _ => .ambientLight
  | .crc _ => .crc
  | .terminator => .terminator

/-- The host line that puts a frame byte at buffer offset `off`. -/
def wireLine (off : BitVec 6) (x : WireByte) : HostLine :=
  .frameByte (wireClassOf x) off (encodeWire x)

/-- The script word of a write, `WR` (R104). -/
def writeWord (addr : Byte) (data : BusWord) : BitVec 32 := 0x80#8 ++ addr ++ data

/-- The script word of a read, `RD` (R104). -/
def readWord (addr : Byte) : BitVec 32 := 0x00#8 ++ addr ++ 0#16

/-- The encoder: the host line that stands for an instruction. -/
def encode : Instr → HostLine
  | .nop => .command (encodeOpcode .nop)
  | .crc7Seed => .command (encodeOpcode .crc7Seed)
  | .crc7Upd => .command (encodeOpcode .crc7Upd)
  | .mtpEnc => .command (encodeOpcode .mtpEnc)
  | .mtpDec => .command (encodeOpcode .mtpDec)
  | .fsmEnc => .command (encodeOpcode .fsmEnc)
  | .fsmDec => .command (encodeOpcode .fsmDec)
  | .tcCmp => .command (encodeOpcode .tcCmp)
  | .tcExp => .command (encodeOpcode .tcExp)
  | .stSmooth => .command (encodeOpcode .stSmooth)
  | .stWarmsh => .command (encodeOpcode .stWarmsh)
  | .stCommit => .command (encodeOpcode .stCommit)
  | .stGet => .command (encodeOpcode .stGet)
  | .stZap => .command (encodeOpcode .stZap)
  | .reserved op => .command (encodeOpcode (.reserved op))
  | .wireFullHeader off idp idh sec => wireLine off (.fullHeader idp idh sec)
  | .wireIdByte off id => wireLine off (.idByte id)
  | .wireTpByte0 off pl lo => wireLine off (.tpByte0 pl lo)
  | .wireTpByte1 off hi => wireLine off (.tpByte1 hi)
  | .wireFlags off alp occ => wireLine off (.flags alp occ)
  | .wireAmbientLight off level => wireLine off (.ambientLight level)
  | .wireCrc off c => wireLine off (.crc c)
  | .wireTerminator off => wireLine off .terminator
  | .scriptWr addr data => .access (writeWord addr data)
  | .scriptRd addr => .access (readWord addr)

/-- The host line of `nbits` instruction bits `w`: 8 bits are an opcode, 32 bits a script word; no row of the table has
another width (log 3). -/
def tableLine (nbits w : Nat) : Option HostLine :=
  if nbits = 8 then some (.command (BitVec.ofNat 8 w))
  else if nbits = 32 then some (.access (BitVec.ofNat 32 w))
  else none

/-- The instruction the decoder reads from `nbits` bits. An 8-bit word is what `CMD` would decode it as: the `CMD8` rows
are all a decoder for the block needs (R106), so a byte that is also of a `WIRE8` class comes out as its command. -/
def decodeTableWord (nbits w : Nat) : Option Instr :=
  (tableLine nbits w).bind fun l => (decode l).toOption

end Sys2Proof
end

