-- ==== Sys2Proof/Machine/State.lean ====
section
/-! DEFINITION. The state of the block (10_state.md R30), the reasons a command can fail, and the machine after reset. -/

namespace Sys2Proof.Machine

/-- The failure codes of 60_exceptions.md R270. A failed command is an ordinary next state with its code in `STATUS`. -/
inductive FailCode
  /-- `E_INVAL` (R271). -/
  | inval
  /-- `E_WIRE` (R272). -/
  | wire
  /-- `E_NOSPACE` (R274). -/
  | noSpace
  /-- `E_BADOP` (R275). -/
  | badOp
deriving DecidableEq, Repr

/-- The fifteen host-visible registers (10_state.md R30), as the bus names them. -/
inductive Reg
  | cmd | status | cfg | crc | pos | lim | fflags | fid | ftemp | fambl | a | b | c | h | q
deriving DecidableEq, Repr

/-- The state. The first fifteen registers, `buf` and `nv` are the spec's (R30); `params` to `pending` are the model's
own: the instance's configuration, the environment's inputs and the value last seen on the bus. -/
structure State where
  /-- `CMD`, R31. -/
  cmd : Byte
  /-- `STATUS`, R32: OK bit 0, FIN bit 1, ERR bits 7:4. -/
  status : Byte
  /-- `CFG`, R34: OCCTX bit 0, SECCH bit 1. -/
  cfg : BitVec 2
  /-- `CRC`, R35. -/
  crc : Crc7
  /-- `POS`, R38. -/
  pos : Byte
  /-- `LIM`, R37. -/
  lim : Byte
  /-- `FFLAGS`, R39: IDP 0, TPP 1, ALP 2, PL 3, OCC 5:4. -/
  fflags : BitVec 6
  /-- `FID`, R40: ID0 7:0, ID1 15:8. -/
  fid : BusWord
  /-- `FTEMP`, R41. -/
  ftemp : BusWord
  /-- `FAMBL`, R42. -/
  fambl : Byte
  /-- `A`, R44. -/
  a : BusWord
  /-- `B`, R45. -/
  b : Byte
  /-- `C`, R46. -/
  c : Byte
  /-- `H`, R47. -/
  h : BitVec 5
  /-- `Q`, R48. -/
  q : BusWord
  /-- `BUF`, R49: the bytes written since reset; an unlisted offset has not been written and reads as a free value. -/
  buf : List Host.Cell
  /-- `NV`, R50: the bytes that are not `0xFF`; an unlisted address reads `0xFF`. -/
  nv : List Host.Cell
  /-- The instance's configuration (log 8); constant. -/
  params : Params
  /-- The samples the environment will put on `RND`, in draw order (R52; log 5). -/
  rndIn : List Byte
  /-- How many samples of `RND` have been drawn (log 5). -/
  rndTaken : Nat
  /-- What the bus returned on the last host read (20_memory.md R72; log 9). -/
  busData : BusWord
  /-- How many resets came before; picks the free content of unwritten buffer bytes (log 6). -/
  resets : Nat
  /-- What the outside world does next, oldest first (log 1). -/
  pending : List HostEvent
deriving DecidableEq, Repr

/-- No constructor: nothing stops the block. A failed command is a next state (60_exceptions.md R276, R278), a reserved bus
address is no failure (20_memory.md R71), and no arithmetic condition is one (R277). -/
inductive Fault
deriving DecidableEq, Repr

/-- What the model does not accept. -/
inductive Refusal
  /-- An instruction without a meaning; raised by no arm of `exec`. -/
  | notModelled (mnemonic : String)
  /-- `step` raises it on a pending 32-bit word that is neither form of 30_encoding.md R104: that notation has no such
  line, and the block never sees the word. Safe: nothing is claimed of it. -/
  | notAScriptWord
  /-- `step` raises it on a pending frame byte whose fixed bits are not those of its class (R110): no such line was
  written. Safe: nothing is claimed of it (the same byte can be written by a bus access). -/
  | notOfItsClass
deriving DecidableEq, Repr

/-- The machine right after reset: every register 0 (10_state.md R55), no buffer byte written (R56), the store as a store
that has never been written (R57; log 7), the default parameters (log 8), and nothing pending (log 1). -/
def State.reset : State where
  cmd := 0
  status := 0
  cfg := 0
  crc := 0
  pos := 0
  lim := 0
  fflags := 0
  fid := 0
  ftemp := 0
  fambl := 0
  a := 0
  b := 0
  c := 0
  h := 0
  q := 0
  buf := []
  nv := []
  params := Params.default
  rndIn := []
  rndTaken := 0
  busData := 0
  resets := 0
  pending := []

end Sys2Proof.Machine
end

