-- ==== Sys2Proof/Machine/Flags.lean ====
section
/-! DEFINITION. `STATUS` (10_state.md R32, R33): the only flags there are, and the failure codes of 60_exceptions.md R270. -/

namespace Sys2Proof.Machine

/-- `STATUS.ERR` of a failure (60_exceptions.md R270). -/
def errCode : FailCode → BitVec 4
  | .inval => 1
  | .wire => 2
  | .noSpace => 3
  | .badOp => 15

/-- `STATUS` from its three fields; bits 3:2 are always 0 (10_state.md R32). -/
def statusWord (err : BitVec 4) (fin ok : Bool) : Byte :=
  err ++ 0#2 ++ BitVec.ofBool fin ++ BitVec.ofBool ok

/-- `STATUS` after a command that succeeded (40_control.md R142 (3)). -/
def okStatus (fin : Bool) : Byte := statusWord 0 fin true

/-- `STATUS` after a command that failed (00_scope.md R20). -/
def failStatus (e : FailCode) : Byte := statusWord (errCode e) false false

/-- `STATUS.OK`. -/
def State.ok (s : State) : Bool := s.status.getLsbD 0

/-- `STATUS.FIN`. -/
def State.fin (s : State) : Bool := s.status.getLsbD 1

/-- `STATUS.ERR`. -/
def State.err (s : State) : BitVec 4 := s.status.extractLsb' 4 4

/-- Every value `STATUS` can hold (60_exceptions.md R270): the value after reset, and those a command leaves. -/
def legalStatuses : List Byte := [0x00, 0x01, 0x03, 0x10, 0x20, 0x30, 0xF0]

end Sys2Proof.Machine
end

