-- ==== Sys2Proof/Machine/Ops.lean ====
section
/-! DEFINITION. The named operations the meanings share: the two memories, the store primitives, the random port, the
sequence every command follows, what a failure does, and reset. -/

namespace Sys2Proof.Machine

/-! ## A memory as a list of cells -/

/-- The byte listed at an address. -/
def Memory.lookup (addr : Nat) : List Host.Cell → Option Byte
  | [] => none
  | cell :: m => if cell.1 = addr then some cell.2 else Memory.lookup addr m

/-- List a byte at an address, keeping the addresses rising. -/
def Memory.put (addr : Nat) (v : Byte) : List Host.Cell → List Host.Cell
  | [] => [(addr, v)]
  | cell :: m =>
    if addr < cell.1 then (addr, v) :: cell :: m
    else if addr = cell.1 then (addr, v) :: m
    else cell :: Memory.put addr v m

/-- Take an address off the list. -/
def Memory.drop (addr : Nat) : List Host.Cell → List Host.Cell
  | [] => []
  | cell :: m => if cell.1 = addr then m else cell :: Memory.drop addr m

/-- Write a byte. `blank` is the value an unlisted address reads as, if that is one value: writing it takes the entry
off the list, so that equal memories are equal lists. -/
def Memory.write (blank : Option Byte) (addr : Nat) (v : Byte) (m : List Host.Cell) : List Host.Cell :=
  if blank = some v then Memory.drop addr m else Memory.put addr v m

/-- The canonical form: addresses rising and below `size`, and no entry equal to what an unlisted address reads as. -/
abbrev Memory.wf (size : Nat) (blank : Option Byte) (m : List Host.Cell) : Prop :=
  m.Pairwise (fun x y => x.1 < y.1) ∧ ∀ x ∈ m, x.1 < size ∧ blank ≠ some x.2

/-! ## The frame buffer (10_state.md R49) -/

/-- `MemRead(BUF, off, 1)` (00_scope.md R19). A byte not written since reset is a free value (10_state.md R56; log 6). -/
def bufRead (s : State) (off : Nat) : Byte :=
  (Memory.lookup off s.buf).getD (Config.bufFree s.resets off)

/-- `MemWrite(BUF, off, 1, v)` (00_scope.md R19). -/
def bufWrite (off : Nat) (v : Byte) (s : State) : State :=
  { s with buf := Memory.write none off v s.buf }

/-- Write a run of bytes, lowest offset first. -/
def bufWriteList (off : Nat) : List Byte → State → State
  | [], s => s
  | v :: vs, s => bufWriteList (off + 1) vs (bufWrite off v s)

/-- The `n` bytes of the buffer from `off` up. -/
def bufBytes (s : State) (off n : Nat) : List Byte :=
  (List.range' off n).map (bufRead s)

/-! ## The store (20_memory.md section 4) -/

/-- `readByte`, `MemRead(NV, a, 1)` (20_memory.md R77); a byte never written is `0xFF` (10_state.md R57). -/
def nvRead (s : State) (a : Nat) : Byte := (Memory.lookup a s.nv).getD byteFF

/-- The byte at `a` becomes `v`. -/
def nvWrite (a : Nat) (v : Byte) (s : State) : State :=
  { s with nv := Memory.write (some byteFF) a v s.nv }

/-- `smartUpdate` (20_memory.md R78): a write that is skipped when the byte is already right. -/
def nvUpdate (a : Nat) (v : Byte) (s : State) : State × Bool :=
  if nvRead s a = v then (s, false) else (nvWrite a v s, true)

/-- `smartErase` (20_memory.md R79): the byte becomes `0xFF`; the result says whether it was something else. -/
def nvErase (a : Nat) (s : State) : State × Bool :=
  if nvRead s a = byteFF then (s, false) else (nvWrite a byteFF s, true)

/-! ## The random port -/

/-- `draw_rnd()` (00_scope.md R21): one fresh sample of `RND`, the next one the environment supplies, or else a free
value (log 5). -/
def drawRnd (s : State) : Byte × State :=
  match s.rndIn with
  | v :: vs => (v, { s with rndIn := vs, rndTaken := s.rndTaken + 1 })
  | [] => (Config.rndFree s.rndTaken, { s with rndTaken := s.rndTaken + 1 })

/-! ## What ends a command -/

/-- `STATUS` of a success, written last (10_state.md R33, 40_control.md R142 (3)). -/
def succeed (fin : Bool) (s : State) : State := { s with status := okStatus fin }

/-- `raise Fail(E)` (00_scope.md R20, 60_exceptions.md R276 (2)): the code in `STATUS`, nothing entered, nothing saved. -/
def raiseFail (e : FailCode) (s : State) : State := { s with status := failStatus e }

/-- The empty descriptor (10_state.md R43), which a failed decode leaves (60_exceptions.md R276 (3)). -/
def emptyDescriptor (s : State) : State := { s with fflags := 0, fid := 0, ftemp := 0, fambl := 0 }

/-- The common sequence of every command (40_control.md R142): the opcode into `CMD`, then the command's own steps, then
`STATUS`. A body that fails gives no state, so nothing it did survives (60_exceptions.md R276 (5)); `onFail` is what the
rule of the command adds on a failure (R276 (3), (4)). The body of a success also gives `FIN`. -/
def runCommand (op : Byte) (body : State → Except FailCode (State × Bool)) (onFail : State → State) (s : State) :
    Host.Outcome State Fault Refusal :=
  match body { s with cmd := op } with
  | .ok (t, fin) => .next (succeed fin t)
  | .error e => .next (raiseFail e (onFail { s with cmd := op }))

/-! ## Reset -/

/-- Reset while the block is in use (70_reset_and_hazards.md R300, 10_state.md R55 to R57): every register 0, the buffer
unspecified again, the store and everything outside the block as it was. -/
def resetBlock (s : State) : State :=
  { State.reset with
    nv := s.nv, params := s.params, rndIn := s.rndIn, rndTaken := s.rndTaken, busData := s.busData
    resets := s.resets + 1, pending := s.pending }

end Sys2Proof.Machine
end

