-- ==== Sys2Proof/Machine/Operands.lean ====
section
/-! DEFINITION. How a command reads its operands (10_state.md sections 2 to 5), the frame descriptor, and the bus map
(20_memory.md R71, R72). -/

namespace Sys2Proof.Machine

/-! ## Operand registers -/

/-- `sext_16(A)`, a temperature (10_state.md R44). -/
def State.temperature (s : State) : Int := s.a.toInt

/-- `zext_16(A)`, the erase budget (10_state.md R44). -/
def State.budget (s : State) : Nat := s.a.toNat

/-- `sext_8(C) > 0`: WARM this period (10_state.md R46, 42_history.md R176). -/
def State.warmVote (s : State) : Bool := decide (0 < s.c.toInt)

/-- `H`, the hour (10_state.md R47). -/
def State.hour (s : State) : Nat := s.h.toNat

/-- `CFG.OCCTX` (10_state.md R34). -/
def State.occTx (s : State) : Bool := s.cfg.getLsbD 0

/-- `CFG.SECCH` (10_state.md R34). -/
def State.secCh (s : State) : Bool := s.cfg.getLsbD 1

/-! ## The buffer window (10_state.md R37, R38) -/

/-- A malformed window: `POS > LIM` or `LIM > BUF_SIZE` (10_state.md R37, 60_exceptions.md R271 (a)). -/
def State.badWindow (s : State) : Bool := decide (s.lim.toNat < s.pos.toNat ∨ bufSize < s.lim.toNat)

/-- `LIM - POS`, for a window that is not malformed. -/
def State.room (s : State) : Nat := s.lim.toNat - s.pos.toNat

/-- The bytes of the window, at offsets `POS` to `LIM - 1`. -/
def State.window (s : State) : List Byte := bufBytes s s.pos.toNat s.room

/-- `POS <- POS + n`. -/
def State.advance (n : Nat) (s : State) : State := { s with pos := BitVec.ofNat 8 (s.pos.toNat + n) }

/-! ## The frame descriptor (10_state.md section 4) -/

/-- The four descriptor registers as one value, the document's StatsFrame. -/
structure Desc where
  fflags : BitVec 6
  fid : BusWord
  ftemp : BusWord
  fambl : Byte
deriving DecidableEq, Repr

/-- `FFLAGS.IDP` (10_state.md R39). -/
def Desc.idp (d : Desc) : Bool := d.fflags.getLsbD 0

/-- `FFLAGS.TPP`. -/
def Desc.tpp (d : Desc) : Bool := d.fflags.getLsbD 1

/-- `FFLAGS.ALP`. -/
def Desc.alp (d : Desc) : Bool := d.fflags.getLsbD 2

/-- `FFLAGS.PL`. -/
def Desc.pl (d : Desc) : Bool := d.fflags.getLsbD 3

/-- `FFLAGS.OCC`. -/
def Desc.occ (d : Desc) : BitVec 2 := d.fflags.extractLsb' 4 2

/-- `ID0`, the first ID byte (10_state.md R40). -/
def Desc.id0 (d : Desc) : Byte := d.fid.extractLsb' 0 8

/-- `ID1`, the second ID byte. -/
def Desc.id1 (d : Desc) : Byte := d.fid.extractLsb' 8 8

/-- `FFLAGS` from its fields (10_state.md R39). -/
def packFlags (idp tpp alp pl : Bool) (occ : BitVec 2) : BitVec 6 :=
  occ ++ BitVec.ofBool pl ++ BitVec.ofBool alp ++ BitVec.ofBool tpp ++ BitVec.ofBool idp

/-- The descriptor a command finds. -/
def State.desc (s : State) : Desc := ⟨s.fflags, s.fid, s.ftemp, s.fambl⟩

/-- The four registers written as one (20_memory.md R83). -/
def State.setDesc (d : Desc) (s : State) : State :=
  { s with fflags := d.fflags, fid := d.fid, ftemp := d.ftemp, fambl := d.fambl }

/-! ## The bus map -/

/-- What a bus address reaches (20_memory.md R71). -/
inductive BusTarget
  | register (r : Reg)
  | buffer (off : Nat)
  | reserved
deriving DecidableEq, Repr

/-- The host bus map (20_memory.md R71; the register table of 10_state.md section 1). -/
def busTarget (addr : Byte) : BusTarget :=
  match addr.toNat with
  | 0x00 => .register .cmd
  | 0x01 => .register .status
  | 0x02 => .register .cfg
  | 0x03 => .register .crc
  | 0x04 => .register .pos
  | 0x05 => .register .lim
  | 0x06 => .register .fflags
  | 0x07 => .register .fid
  | 0x08 => .register .ftemp
  | 0x09 => .register .fambl
  | 0x0A => .register .a
  | 0x0B => .register .b
  | 0x0C => .register .c
  | 0x0D => .register .h
  | 0x0E => .register .q
  | n => if 0x40 ≤ n ∧ n < 0x80 then .buffer (n - 0x40) else .reserved

/-- A register as the host reads it: zero-extended to 16 bits (20_memory.md R72). -/
def readReg (r : Reg) (s : State) : BusWord :=
  match r with
  | .cmd => s.cmd.setWidth 16
  | .status => s.status.setWidth 16
  | .cfg => s.cfg.setWidth 16
  | .crc => s.crc.setWidth 16
  | .pos => s.pos.setWidth 16
  | .lim => s.lim.setWidth 16
  | .fflags => s.fflags.setWidth 16
  | .fid => s.fid
  | .ftemp => s.ftemp
  | .fambl => s.fambl.setWidth 16
  | .a => s.a
  | .b => s.b.setWidth 16
  | .c => s.c.setWidth 16
  | .h => s.h.setWidth 16
  | .q => s.q

/-- A register as the host writes it: the low bits of the data, the rest dropped (20_memory.md R72); `STATUS` and `Q`
ignore it (R71). For `CMD` this is the store of R31 alone, step (1) of 40_control.md R142. -/
def writeReg (r : Reg) (v : BusWord) (s : State) : State :=
  match r with
  | .cmd => { s with cmd := v.setWidth 8 }
  | .status => s
  | .cfg => { s with cfg := v.setWidth 2 }
  | .crc => { s with crc := v.setWidth 7 }
  | .pos => { s with pos := v.setWidth 8 }
  | .lim => { s with lim := v.setWidth 8 }
  | .fflags => { s with fflags := v.setWidth 6 }
  | .fid => { s with fid := v }
  | .ftemp => { s with ftemp := v }
  | .fambl => { s with fambl := v.setWidth 8 }
  | .a => { s with a := v }
  | .b => { s with b := v.setWidth 8 }
  | .c => { s with c := v.setWidth 8 }
  | .h => { s with h := v.setWidth 5 }
  | .q => s

/-- What a host read of an address returns (20_memory.md R71, R72). -/
def busRead (addr : Byte) (s : State) : BusWord :=
  match busTarget addr with
  | .register r => readReg r s
  | .buffer off => (bufRead s off).setWidth 16
  | .reserved => 0

end Sys2Proof.Machine
end

