-- ==== Sys2Proof/Machine/Control.lean ====
section
/-! DEFINITION. `NOP` and the reserved opcodes (40_control.md). -/

namespace Sys2Proof.Machine

/-- `NOP` (40_control.md R140). -/
def execNop (s : State) : Host.Outcome State Fault Refusal :=
  runCommand (encodeOpcode .nop) (fun s => .ok (s, false)) id s

/-- A reserved opcode (40_control.md R141). -/
def execReserved (op : Byte) (s : State) : Host.Outcome State Fault Refusal :=
  runCommand op (fun _ => .error .badOp) id s

end Sys2Proof.Machine
end

