-- ==== Sys2Proof/Machine/Crc.lean ====
section
/-! DEFINITION. The CRC-7 routine and its two commands (43_crc7.md). -/

namespace Sys2Proof.Machine

/-- One bit step of `crc7_upd` (43_crc7.md R201): the data bit folded into the top of the register as it shifts. -/
def crc7Bit (c : Crc7) (dataBit : Bool) : Crc7 :=
  if c.getLsbD 6 ^^ dataBit then (c <<< 1) ^^^ 0x37#7 else c <<< 1

/-- `crc7_upd(c, d)` (43_crc7.md R201): bits 7 down to 0 of the byte. Where R205 (c) says otherwise, of leading zero bytes
after the seed `0x6D`, which this leaves as it is, the pseudocode of R201 is followed (log 22, DEDUCED). -/
def crc7Upd (c : Crc7) (d : Byte) : Crc7 :=
  [7, 6, 5, 4, 3, 2, 1, 0].foldl (fun acc i => crc7Bit acc (d.getLsbD i)) c

/-- `crc7(seed, m)` (43_crc7.md R202). -/
def crc7 (seed : Crc7) (m : List Byte) : Crc7 := m.foldl crc7Upd seed

/-- `CRC7.SEED` (43_crc7.md R203). -/
def execCrc7Seed (s : State) : Host.Outcome State Fault Refusal :=
  runCommand (encodeOpcode .crc7Seed) (fun s => .ok ({ s with crc := s.b.setWidth 7 }, false)) id s

/-- `CRC7.UPD` (43_crc7.md R204). -/
def execCrc7Upd (s : State) : Host.Outcome State Fault Refusal :=
  runCommand (encodeOpcode .crc7Upd) (fun s => .ok ({ s with crc := crc7Upd s.crc s.b }, false)) id s

end Sys2Proof.Machine
end

