-- ==== Sys2Proof/Machine/Trailer.lean ====
section
/-! DEFINITION. The minimal trailer (44_minimal_trailer.md), and the packing of temperature and power that the full-core
frame shares. -/

namespace Sys2Proof.Machine

/-- `bias_t(T)` (44_minimal_trailer.md R216): clamped, then biased into 0 to 2047. -/
def biasT (p : Params) (t : Int) : Nat :=
  (min (max t (-(p.tempBias : Int))) (2047 - (p.tempBias : Int)) + (p.tempBias : Int)).toNat

/-- `tp_pack(T, L)` (44_minimal_trailer.md R217). -/
def tpPack (p : Params) (t : Int) (pl : Bool) : Byte × Byte :=
  let b := BitVec.ofNat 11 (biasT p t)
  (encodeWire (.tpByte0 pl (b.extractLsb' 0 4)), encodeWire (.tpByte1 (b.extractLsb' 4 7)))

/-- `tp_unpack(byte0, byte1)` (44_minimal_trailer.md R218), where both bytes have their fixed bits. -/
def tpUnpack (p : Params) (y0 y1 : Byte) : Option (Int × Bool) :=
  match decodeWire .tpByte0 y0, decodeWire .tpByte1 y1 with
  | some (.tpByte0 pl lo), some (.tpByte1 hi) => some (((hi ++ lo).toNat : Int) - p.tempBias, pl)
  | _, _ => none

/-- A CRC byte (30_encoding.md R117). -/
def crcByte (c : Crc7) : Byte := encodeWire (.crc c)

/-- The three bytes of a minimal trailer (30_encoding.md R111). -/
def trailerBytes (p : Params) (t : Int) (pl : Bool) : List Byte :=
  [(tpPack p t pl).1, (tpPack p t pl).2, crcByte (crc7 minCrcSeed [(tpPack p t pl).1, (tpPack p t pl).2])]

/-- `MTP.ENC` (44_minimal_trailer.md R221). -/
def execMtpEnc (s : State) : Host.Outcome State Fault Refusal :=
  runCommand (encodeOpcode .mtpEnc)
    (fun s =>
      if s.badWindow then .error .inval
      else if s.room < 3 then .error .noSpace
      else .ok ((bufWriteList s.pos.toNat (trailerBytes s.params s.ftemp.toInt s.desc.pl) s).advance 3, false))
    id s

/-- The checks and the fields of a minimal trailer at the head of a window (44_minimal_trailer.md R225). -/
def parseTrailer (p : Params) : List Byte → Option (Int × Bool)
  | y0 :: y1 :: y2 :: _ =>
    match tpUnpack p y0 y1 with
    | some (t, pl) => if y2 = crcByte (crc7 minCrcSeed [y0, y1]) then some (t, pl) else none
    | none => none
  | _ => none

/-- `MTP.DEC` (44_minimal_trailer.md R225); a failure of any kind empties the descriptor (60_exceptions.md R276 (3)). -/
def execMtpDec (s : State) : Host.Outcome State Fault Refusal :=
  runCommand (encodeOpcode .mtpDec)
    (fun s =>
      if s.badWindow then .error .inval
      else
        match parseTrailer s.params s.window with
        | some (t, pl) =>
          .ok ((s.setDesc ⟨packFlags false true false pl 0, 0, BitVec.ofInt 16 t, 0⟩).advance 3, false)
        | none => .error .wire)
    emptyDescriptor s

end Sys2Proof.Machine
end

