-- ==== Sys2Proof/Machine/Frame.lean ====
section
/-! DEFINITION. The full-core frame (45_full_frame.md). The decoder reads the bytes of the window as a list, front first;
`need(k)` of the rule is a list long enough, and every failure of the parse is the one code `E_WIRE` (log 11). -/

namespace Sys2Proof.Machine

/-- The payload length `n` (45_full_frame.md R236). -/
def frameLen (idp tpp alp : Bool) : Nat := 2 + 2 * idp.toNat + 2 * tpp.toNat + alp.toNat

/-- `occ_wire` (45_full_frame.md R243). -/
def occWire (occTx : Bool) (d : Desc) : BitVec 2 := if occTx then d.occ else 0

/-- The descriptor cannot be sent (45_full_frame.md R238, 60_exceptions.md R271 (c), (d)): an ID byte `0xFF`, two ID bytes
with different top bits, or an ambient-light byte `0x00` or `0xFF`; absent fields are not looked at. -/
def Desc.unsendable (d : Desc) : Bool :=
  (d.idp && (d.id0 == byteFF || d.id1 == byteFF || d.id0.getLsbD 7 != d.id1.getLsbD 7)) ||
  (d.alp && (d.fambl == 0x00 || d.fambl == byteFF))

/-- The payload of a frame, header to last byte before the CRC (45_full_frame.md R238, 30_encoding.md R119). -/
def payload (p : Params) (occTx : Bool) (d : Desc) : List Byte :=
  [encodeWire (.fullHeader d.idp (d.idp && d.id0.getLsbD 7) false)]
  ++ (if d.idp then [encodeWire (.idByte (d.id0.setWidth 7)), encodeWire (.idByte (d.id1.setWidth 7))] else [])
  ++ (if d.tpp then [(tpPack p d.ftemp.toInt d.pl).1, (tpPack p d.ftemp.toInt d.pl).2] else [])
  ++ [encodeWire (.flags d.alp (occWire occTx d))]
  ++ (if d.alp then [encodeWire (.ambientLight d.fambl)] else [])

/-- The whole frame: payload, CRC byte, terminator (30_encoding.md R117 to R119). -/
def frameBytes (p : Params) (occTx : Bool) (d : Desc) : List Byte :=
  payload p occTx d ++ [crcByte (crc7 p.fullCrcSeed (payload p occTx d)), encodeWire .terminator]

/-- `FSM.ENC` (45_full_frame.md R238): the tests in the order of the rule, then the frame, then `POS` at its terminator. -/
def execFsmEnc (s : State) : Host.Outcome State Fault Refusal :=
  runCommand (encodeOpcode .fsmEnc)
    (fun s =>
      let n := frameLen s.desc.idp s.desc.tpp s.desc.alp
      if s.secCh then .error .inval
      else if s.badWindow then .error .inval
      else if s.desc.unsendable then .error .inval
      else if s.room < n + 2 then .error .noSpace
      else .ok ((bufWriteList s.pos.toNat (frameBytes s.params s.occTx s.desc) s).advance (n + 1), false))
    id s

/-- The header byte: `IDP`, `IDH` and the bytes after it (45_full_frame.md R250). -/
def parseHeader : List Byte → Option (Bool × Bool × List Byte)
  | h :: rest =>
    match decodeWire .fullHeader h with
    | some (.fullHeader idp idh sec) => if sec || (idh && !idp) then none else some (idp, idh, rest)
    | _ => none
  | [] => none

/-- The two ID bytes, their top bit put back, if the header says they are there. -/
def parseId (idp idh : Bool) (bytes : List Byte) : Option (Byte × Byte × List Byte) :=
  if idp then
    match bytes with
    | w0 :: w1 :: rest =>
      match decodeWire .idByte w0, decodeWire .idByte w1 with
      | some (.idByte i0), some (.idByte i1) =>
        let id0 : Byte := BitVec.ofBool idh ++ i0
        let id1 : Byte := BitVec.ofBool idh ++ i1
        if id0 = byteFF ∨ id1 = byteFF then none else some (id0, id1, rest)
      | _, _ => none
    | _ => none
  else some (0, 0, bytes)

/-- The temperature and power section, present when the next byte has its pattern: presence, temperature, low-power
flag and the bytes after it (30_encoding.md R119). -/
def parseTp (p : Params) : List Byte → Option (Bool × Int × Bool × List Byte)
  | y0 :: rest =>
    if isOfClass .tpByte0 y0 then
      match rest with
      | y1 :: rest' =>
        match tpUnpack p y0 y1 with
        | some (t, pl) => some (true, t, pl, rest')
        | none => none
      | [] => none
    else some (false, 0, false, y0 :: rest)
  | [] => none

/-- The flags byte: `ALP`, `OCC` and the bytes after it. -/
def parseFlags : List Byte → Option (Bool × BitVec 2 × List Byte)
  | f :: rest =>
    match decodeWire .flags f with
    | some (.flags alp occ) => some (alp, occ, rest)
    | _ => none
  | [] => none

/-- The ambient-light byte, if the flags byte says it is there. -/
def parseAmbient (alp : Bool) (bytes : List Byte) : Option (Byte × List Byte) :=
  if alp then
    match bytes with
    | v :: rest => if v = 0x00 ∨ v = byteFF then none else some (v, rest)
    | [] => none
  else some (0, bytes)

/-- The checks and the fields of a frame at the head of a window (45_full_frame.md R250): the descriptor and the payload
length. -/
def parseFrame (p : Params) (bytes : List Byte) : Option (Desc × Nat) :=
  (parseHeader bytes).bind fun (idp, idh, b1) =>
  (parseId idp idh b1).bind fun (id0, id1, b2) =>
  (parseTp p b2).bind fun (tpp, t, pl, b3) =>
  (parseFlags b3).bind fun (alp, occ, b4) =>
  (parseAmbient alp b4).bind fun (ambl, b5) =>
  b5.head?.bind fun c =>
    let n := frameLen idp tpp alp
    if c = crcByte (crc7 p.fullCrcSeed (bytes.take n)) then
      some (⟨packFlags idp tpp alp pl occ, id1 ++ id0, BitVec.ofInt 16 t, ambl⟩, n)
    else none

/-- `FSM.DEC` (45_full_frame.md R250); a failure of any kind empties the descriptor (60_exceptions.md R276 (3)). -/
def execFsmDec (s : State) : Host.Outcome State Fault Refusal :=
  runCommand (encodeOpcode .fsmDec)
    (fun s =>
      if s.badWindow then .error .inval
      else
        match parseFrame s.params s.window with
        | some (d, n) => .ok ((s.setDesc d).advance (n + 1), false)
        | none => .error .wire)
    emptyDescriptor s

end Sys2Proof.Machine
end

