-- ==== Sys2Proof/Machine/Compander.lean ====
section
/-! DEFINITION. The temperature compander (41_compander.md). -/

namespace Sys2Proof.Machine

/-- `LOW` (00_scope.md R14). -/
def low (p : Params) : Nat := 16 * p.cmpLowC

/-- `HIGH` (00_scope.md R14). -/
def high (p : Params) : Nat := 16 * p.cmpHighC

/-- `CEIL` (00_scope.md R14). -/
def ceil16 : Nat := 1600

/-- `LOW_AFTER` (00_scope.md R14). -/
def lowAfter (p : Params) : Nat := low p >>> 3

/-- `HIGH_AFTER` (00_scope.md R14). -/
def highAfter (p : Params) : Nat := lowAfter p + ((high p - low p) >>> 1)

/-- `CEIL_AFTER` (00_scope.md R14). -/
def ceilAfter (p : Params) : Nat := highAfter p + ((ceil16 - high p) >>> 3)

/-- `compress(t)` (41_compander.md R152). -/
def compress (p : Params) (t : Int) : Nat :=
  if t ≤ 0 then 0
  else if t.toNat < low p then t.toNat >>> 3
  else if t.toNat < high p then lowAfter p + ((t.toNat - low p) >>> 1)
  else if t.toNat < ceil16 then highAfter p + ((t.toNat - high p) >>> 3)
  else ceilAfter p

/-- `expand(c)` for a code that is not the sentinel (41_compander.md R158). -/
def expandCode (p : Params) (c : Nat) : Nat :=
  if c < lowAfter p then c <<< 3
  else if c < highAfter p then low p + ((c - lowAfter p) <<< 1)
  else if c ≤ ceilAfter p then high p + ((c - highAfter p) <<< 3)
  else ceil16

/-- `expand(c)` as a 16-bit pattern (41_compander.md R158): `UNSET_INT` for the sentinel. -/
def expand (p : Params) (c : Byte) : BusWord :=
  if c = byteFF then p.unsetInt else BitVec.ofNat 16 (expandCode p c.toNat)

/-- `TC.CMP` (41_compander.md R156). -/
def execTcCmp (s : State) : Host.Outcome State Fault Refusal :=
  runCommand (encodeOpcode .tcCmp)
    (fun s => .ok ({ s with q := BitVec.ofNat 16 (compress s.params s.temperature) }, false)) id s

/-- `TC.EXP` (41_compander.md R160). -/
def execTcExp (s : State) : Host.Outcome State Fault Refusal :=
  runCommand (encodeOpcode .tcExp) (fun s => .ok ({ s with q := expand s.params s.b }, false)) id s

end Sys2Proof.Machine
end

