-- ==== Sys2Proof/Machine/History.lean ====
section
/-! DEFINITION. Smoothing, the WARM-usage bitmap and the hourly history (42_history.md). -/

namespace Sys2Proof.Machine

/-- `draw_rnd()[k-1:0]`: the low `SMOOTH_SHIFT` bits of one fresh sample (42_history.md R174). -/
def drawBits (s : State) : Nat × State :=
  ((drawRnd s).1.toNat % 2 ^ s.params.smoothShift, (drawRnd s).2)

/-- `smooth(old, new, r)` (42_history.md R172). -/
def smooth (p : Params) (old new r : Nat) : Nat :=
  (old * (2 ^ p.smoothShift - 1) + new + r) >>> p.smoothShift

/-- `warmshift(old, w)` (42_history.md R175). -/
def warmshift (old : Byte) (w : Bool) : Byte :=
  if old = byteFF then (if w then 0x7F else 0x00)
  else ((old >>> 1) &&& 0x3F) ||| (if w then 0x40 else 0x00)

/-- `alclamp(v)` (42_history.md R177). -/
def alclamp (v : Byte) : Byte := if v = byteFF then 0xFE else v

/-- `slot(s, h)`, the store address of set `set` at hour `h` (42_history.md R178). -/
def slot (p : Params) (set h : Nat) : Nat := p.statsBase + 24 * set + h

/-- `ST.SMOOTH` (42_history.md R174): exactly one sample is taken. -/
def execStSmooth (s : State) : Host.Outcome State Fault Refusal :=
  runCommand (encodeOpcode .stSmooth)
    (fun s =>
      let (r, t) := drawBits s
      .ok ({ t with q := BitVec.ofNat 16 (smooth s.params s.c.toNat s.b.toNat r) }, false)) id s

/-- `ST.WARMSH` (42_history.md R176). -/
def execStWarmsh (s : State) : Host.Outcome State Fault Refusal :=
  runCommand (encodeOpcode .stWarmsh)
    (fun s => .ok ({ s with q := (warmshift s.b s.warmVote).setWidth 16 }, false)) id s

/-- One quantity of a commit (42_history.md R180): its last slot in set `set` unconditionally, then its smoothed slot in
the next set, initialised when unset and else folded in with a fresh sample. -/
def commitQuantity (set : Nat) (code : Byte) (s : State) : State :=
  let s := (nvUpdate (slot s.params set s.hour) code s).1
  let old := nvRead s (slot s.params (set + 1) s.hour)
  if old = byteFF then (nvUpdate (slot s.params (set + 1) s.hour) code s).1
  else
    let (r, s) := drawBits s
    (nvUpdate (slot s.params (set + 1) s.hour)
      (BitVec.ofNat 8 (smooth s.params old.toNat code.toNat r)) s).1

/-- The bitmap slot of a commit (42_history.md R180). -/
def commitBitmap (s : State) : State :=
  (nvUpdate (slot s.params 4 s.hour) (warmshift (nvRead s (slot s.params 4 s.hour)) s.warmVote) s).1

/-- `ST.COMMIT` (42_history.md R180): temperature, then ambient light, then the bitmap. -/
def execStCommit (s : State) : Host.Outcome State Fault Refusal :=
  runCommand (encodeOpcode .stCommit)
    (fun s =>
      if 24 ≤ s.hour then .error .inval
      else
        .ok (commitBitmap (commitQuantity 2 (alclamp s.b)
          (commitQuantity 0 (BitVec.ofNat 8 (compress s.params s.temperature)) s)), false)) id s

/-- `ST.GET` (42_history.md R187); a failure leaves the sentinel in `Q` (60_exceptions.md R276 (4)). -/
def execStGet (s : State) : Host.Outcome State Fault Refusal :=
  runCommand (encodeOpcode .stGet)
    (fun s =>
      if 24 ≤ s.hour ∨ 5 ≤ s.b.toNat then .error .inval
      else .ok ({ s with q := (nvRead s (slot s.params s.b.toNat s.hour)).setWidth 16 }, false))
    (fun s => { s with q := 0x00FF }) s

/-- The loop of `ST.ZAP` (42_history.md R190) over the addresses still to look at: the state, the count of erases so far
and whether the end was reached within the budget. -/
def zapLoop (budget : Nat) : List Nat → Nat → State → State × Nat × Bool
  | [], n, s => (s, n, true)
  | a :: rest, n, s =>
    if nvRead s a = byteFF then zapLoop budget rest n s
    else if n = budget then (s, n, false)
    else zapLoop budget rest (n + 1) (nvErase a s).1

/-- The addresses of the statistics region, ascending (10_state.md R50). -/
def regionAddresses (p : Params) : List Nat := List.range' p.statsBase 120

/-- `ST.ZAP` (42_history.md R190). `Q` is the count of this command, also when it finds nothing to erase; 20_memory.md R85
says otherwise of a second run, and R190 is followed (log 21, DEDUCED). -/
def execStZap (s : State) : Host.Outcome State Fault Refusal :=
  runCommand (encodeOpcode .stZap)
    (fun s =>
      let (t, n, fin) := zapLoop s.budget (regionAddresses s.params) 0 s
      .ok ({ t with q := BitVec.ofNat 16 n }, fin)) id s

end Sys2Proof.Machine
end

