-- ==== Sys2Proof/Machine/Bus.lean ====
section
/-! DEFINITION. The host bus (20_memory.md R70 to R72, R84): a read returns a register or a buffer byte; a write stores one,
and a write to `CMD` runs a command (10_state.md R31, 40_control.md R142). -/

namespace Sys2Proof.Machine

/-- The command of a decoded opcode, run whole (40_control.md R142). -/
def runOpcode (o : Opcode) (s : State) : Host.Outcome State Fault Refusal :=
  match o with
  | .nop => execNop s
  | .crc7Seed => execCrc7Seed s
  | .crc7Upd => execCrc7Upd s
  | .mtpEnc => execMtpEnc s
  | .mtpDec => execMtpDec s
  | .fsmEnc => execFsmEnc s
  | .fsmDec => execFsmDec s
  | .tcCmp => execTcCmp s
  | .tcExp => execTcExp s
  | .stSmooth => execStSmooth s
  | .stWarmsh => execStWarmsh s
  | .stCommit => execStCommit s
  | .stGet => execStGet s
  | .stZap => execStZap s
  | .reserved op => execReserved op s

/-- `script.WR`, the host's write (30_encoding.md R104; 20_memory.md R71, R72): a write to `CMD` runs the command whose
opcode is the low byte of the data. -/
def execScriptWr (addr : Byte) (data : BusWord) (s : State) : Host.Outcome State Fault Refusal :=
  match busTarget addr with
  | .register .cmd => runOpcode (decodeOpcode (data.setWidth 8)) s
  | .register r => .next (writeReg r data s)
  | .buffer off => .next (bufWrite off (data.setWidth 8) s)
  | .reserved => .next s

/-- `script.RD`, the host's read (30_encoding.md R104; 20_memory.md R84): the block is not changed; what the bus returned
is kept in the model's own field `busData` (log 9). -/
def execScriptRd (addr : Byte) (s : State) : Host.Outcome State Fault Refusal :=
  .next { s with busData := busRead addr s }

end Sys2Proof.Machine
end

