-- ==== Sys2Proof/Machine/Wire.lean ====
section
/-! DEFINITION. A frame byte reaching the block: the host writes it into the frame buffer (10_state.md R49; the `LDB` line
of 30_encoding.md R105 is `WR BUF[off], byte`), which changes that buffer byte and nothing else (20_memory.md R84). What
the byte means to the block is in `FSM.ENC`, `FSM.DEC`, `MTP.ENC` and `MTP.DEC` (log 2). -/

namespace Sys2Proof.Machine

/-- `WR BUF[off], byte` of a frame byte. -/
def loadFrameByte (off : BitVec 6) (x : WireByte) (s : State) : State := bufWrite off.toNat (encodeWire x) s

/-- A full header byte (30_encoding.md R112). -/
def execWireFullHeader (off : BitVec 6) (idp idh sec : Bool) (s : State) : Host.Outcome State Fault Refusal :=
  .next (loadFrameByte off (.fullHeader idp idh sec) s)

/-- An ID byte (30_encoding.md R113). -/
def execWireIdByte (off : BitVec 6) (id : BitVec 7) (s : State) : Host.Outcome State Fault Refusal :=
  .next (loadFrameByte off (.idByte id) s)

/-- Byte 0 of a temperature and power section (30_encoding.md R114). -/
def execWireTpByte0 (off : BitVec 6) (pl : Bool) (lo : BitVec 4) (s : State) : Host.Outcome State Fault Refusal :=
  .next (loadFrameByte off (.tpByte0 pl lo) s)

/-- Byte 1 of a temperature and power section (30_encoding.md R114). -/
def execWireTpByte1 (off : BitVec 6) (hi : BitVec 7) (s : State) : Host.Outcome State Fault Refusal :=
  .next (loadFrameByte off (.tpByte1 hi) s)

/-- A flags byte (30_encoding.md R115). -/
def execWireFlags (off : BitVec 6) (alp : Bool) (occ : BitVec 2) (s : State) : Host.Outcome State Fault Refusal :=
  .next (loadFrameByte off (.flags alp occ) s)

/-- An ambient-light byte (30_encoding.md R116). -/
def execWireAmbientLight (off : BitVec 6) (level : Byte) (s : State) : Host.Outcome State Fault Refusal :=
  .next (loadFrameByte off (.ambientLight level) s)

/-- A CRC byte (30_encoding.md R117). -/
def execWireCrc (off : BitVec 6) (c : Crc7) (s : State) : Host.Outcome State Fault Refusal :=
  .next (loadFrameByte off (.crc c) s)

/-- A terminator (30_encoding.md R118). -/
def execWireTerminator (off : BitVec 6) (s : State) : Host.Outcome State Fault Refusal :=
  .next (loadFrameByte off .terminator s)

end Sys2Proof.Machine
end

