-- ==== Sys2Proof/Machine/Dispatch.lean ====
section
/-! DEFINITION. One arm per constructor of `Instr`, each a call of its own meaning. -/

namespace Sys2Proof.Machine

def exec (i : Instr) (s : State) : Host.Outcome State Fault Refusal :=
  match i with
  | .nop => Sys2Proof.Machine.execNop s
  | .crc7Seed => Sys2Proof.Machine.execCrc7Seed s
  | .crc7Upd => Sys2Proof.Machine.execCrc7Upd s
  | .mtpEnc => Sys2Proof.Machine.execMtpEnc s
  | .mtpDec => Sys2Proof.Machine.execMtpDec s
  | .fsmEnc => Sys2Proof.Machine.execFsmEnc s
  | .fsmDec => Sys2Proof.Machine.execFsmDec s
  | .tcCmp => Sys2Proof.Machine.execTcCmp s
  | .tcExp => Sys2Proof.Machine.execTcExp s
  | .stSmooth => Sys2Proof.Machine.execStSmooth s
  | .stWarmsh => Sys2Proof.Machine.execStWarmsh s
  | .stCommit => Sys2Proof.Machine.execStCommit s
  | .stGet => Sys2Proof.Machine.execStGet s
  | .stZap => Sys2Proof.Machine.execStZap s
  | .reserved op => Sys2Proof.Machine.execReserved op s
  | .wireFullHeader off idp idh sec => Sys2Proof.Machine.execWireFullHeader off idp idh sec s
  | .wireIdByte off id => Sys2Proof.Machine.execWireIdByte off id s
  | .wireTpByte0 off pl lo => Sys2Proof.Machine.execWireTpByte0 off pl lo s
  | .wireTpByte1 off hi => Sys2Proof.Machine.execWireTpByte1 off hi s
  | .wireFlags off alp occ => Sys2Proof.Machine.execWireFlags off alp occ s
  | .wireAmbientLight off level => Sys2Proof.Machine.execWireAmbientLight off level s
  | .wireCrc off c => Sys2Proof.Machine.execWireCrc off c s
  | .wireTerminator off => Sys2Proof.Machine.execWireTerminator off s
  | .scriptWr addr data => Sys2Proof.Machine.execScriptWr addr data s
  | .scriptRd addr => Sys2Proof.Machine.execScriptRd addr s

end Sys2Proof.Machine
end

