-- ==== Sys2Proof/Machine/Step.lean ====
section
/-! DEFINITION. One step: the next thing the outside world does to the block (log 1). -/

namespace Sys2Proof.Machine

/-- The refusal of a line that is no instruction (log 4). -/
def refusalOf : DecodeError → Refusal
  | .notAScriptWord => .notAScriptWord
  | .notOfItsClass => .notOfItsClass

/-- One step. The oldest pending event leaves the list and happens: a host line is decoded and executed, the store's
other user writes a byte (20_memory.md R82), or the block is reset (70_reset_and_hazards.md R300). With nothing pending
the block waits for the next host access and nothing changes (40_control.md R142). -/
def step (s : State) : Host.Outcome State Fault Refusal :=
  match s.pending with
  | [] => .next s
  | .line l :: rest =>
    match decode l with
    | .ok i => exec i { s with pending := rest }
    | .error e => .refused (refusalOf e)
  | .storeWrite addr v :: rest => .next (nvWrite addr.toNat v { s with pending := rest })
  | .reset :: rest => .next (resetBlock { s with pending := rest })

/-- `s` with the instruction of `nbits` bits `w` as the next thing the host does, before all that was pending; `s` itself
where no row of the table has `nbits` bits (log 1, log 3). -/
def State.withFetchWord (s : State) (nbits w : Nat) : State :=
  match tableLine nbits w with
  | some l => { s with pending := .line l :: s.pending }
  | none => s

end Sys2Proof.Machine
end

