-- ==== Sys2Proof/Machine/Script.lean ====
section
/-! DEFINITION. Host scripts: the lines of 30_encoding.md R103 and the pseudo-instructions of R105, as the events they
expand to. -/

namespace Sys2Proof.Machine

/-- The bus address of a register (20_memory.md R71). -/
def regAddress : Reg → Byte
  | .cmd => 0x00
  | .status => 0x01
  | .cfg => 0x02
  | .crc => 0x03
  | .pos => 0x04
  | .lim => 0x05
  | .fflags => 0x06
  | .fid => 0x07
  | .ftemp => 0x08
  | .fambl => 0x09
  | .a => 0x0A
  | .b => 0x0B
  | .c => 0x0C
  | .h => 0x0D
  | .q => 0x0E

/-- The bus address of a buffer byte, `BUF[off]` (20_memory.md R71). -/
def bufAddress (off : Nat) : Byte := BitVec.ofNat 8 (0x40 + off)

/-- `WR reg, value` (R103). -/
def wr (r : Reg) (v : BusWord) : HostEvent := .line (.access (writeWord (regAddress r) v))

/-- `RD reg` (R103). -/
def rd (r : Reg) : HostEvent := .line (.access (readWord (regAddress r)))

/-- `WR BUF[off], byte` (R103). -/
def wrBuf (off : Nat) (v : Byte) : HostEvent := .line (.access (writeWord (bufAddress off) (v.setWidth 16)))

/-- `RD BUF[off]` (R103). -/
def rdBuf (off : Nat) : HostEvent := .line (.access (readWord (bufAddress off)))

/-- A command line, its mnemonic alone (R103). -/
def cmd (o : Opcode) : HostEvent := .line (.command (encodeOpcode o))

/-- `CRC7.MSG seed, b0, …, bn` (R105): leaves the CRC of the message in `CRC`. -/
def crc7Msg (seed : Byte) (m : List Byte) : List HostEvent :=
  [wr .b (seed.setWidth 16), cmd .crc7Seed] ++ m.flatMap fun v => [wr .b (v.setWidth 16), cmd .crc7Upd]

/-- `LDF flags, id, temp, ambl` (R105): loads the frame descriptor. -/
def ldf (flags id temp ambl : BusWord) : List HostEvent :=
  [wr .fflags flags, wr .fid id, wr .ftemp temp, wr .fambl ambl]

/-- `WIN pos, lim` (R105): sets the buffer window. -/
def win (pos lim : BusWord) : List HostEvent := [wr .pos pos, wr .lim lim]

/-- `LDB off, b0, …, bn` (R105): loads bytes into the buffer. -/
def ldb (off : Nat) : List Byte → List HostEvent
  | [] => []
  | v :: vs => wrBuf off v :: ldb (off + 1) vs

/-- The host issues these events next, in this order. -/
def State.thenHost (s : State) (script : List HostEvent) : State := { s with pending := s.pending ++ script }

end Sys2Proof.Machine
end

