-- ==== Sys2Proof/Safety.lean ====
section
/-! DEFINITION. What the statements call a good state, and in what terms they say that something did not change. -/

namespace Sys2Proof.Machine

/-- What every step keeps: both memories in their canonical form, the parameters within their ranges, and `STATUS` one
of the values of 60_exceptions.md R270. -/
abbrev Inv (s : State) : Prop :=
  Memory.wf bufSize none s.buf ∧
  Memory.wf 65536 (some byteFF) s.nv ∧
  s.params.wf ∧
  s.status ∈ legalStatuses

/-- The history holds only bytes the block itself writes (10_state.md R51, 30_encoding.md R125): compander codes or unset in
sets 0 and 1, a clear bit 7 or unset in set 4. Every byte is legal in sets 2 and 3. -/
def HistoryLegal (s : State) : Prop :=
  ∀ h < 24,
    (∀ set < 2, nvRead s (slot s.params set h) = byteFF ∨
      (nvRead s (slot s.params set h)).toNat ≤ ceilAfter s.params) ∧
    (nvRead s (slot s.params 4 h) = byteFF ∨ (nvRead s (slot s.params 4 h)).getLsbD 7 = false)

/-- Every buffer byte reads as before. -/
def SameBuf (s t : State) : Prop := ∀ off, bufRead t off = bufRead s off

/-- Every store byte reads as before. -/
def SameNv (s t : State) : Prop := ∀ a, nvRead t a = nvRead s a

/-- The registers no command writes (the table of 10_state.md section 1). -/
def SameHostRegs (s t : State) : Prop :=
  t.cfg = s.cfg ∧ t.lim = s.lim ∧ t.a = s.a ∧ t.b = s.b ∧ t.c = s.c ∧ t.h = s.h

/-- The environment and the instance as before; only `RND` samples may have been taken. -/
def SameOutside (s t : State) : Prop :=
  t.params = s.params ∧ t.busData = s.busData ∧ t.resets = s.resets ∧ t.pending = s.pending

/-- No sample of `RND` taken. -/
def NoDraw (s t : State) : Prop := t.rndIn = s.rndIn ∧ t.rndTaken = s.rndTaken

/-- The sample that draw number `n` from here on takes: the one supplied, or a free value (42_history.md R174; log 5). -/
def sampleAt (s : State) (n : Nat) : Byte := s.rndIn.getD n (Config.rndFree (s.rndTaken + n))

/-- The four commands that work on the frame buffer. -/
def isFrameCommand : Opcode → Bool
  | .mtpEnc | .mtpDec | .fsmEnc | .fsmDec => true
  | .nop | .crc7Seed | .crc7Upd | .tcCmp | .tcExp | .stSmooth | .stWarmsh | .stCommit | .stGet | .stZap
  | .reserved _ => false

/-- What a frame says of a descriptor `d` (45_full_frame.md R252): absent fields zero, the temperature clamped into the
representable range, the occupancy code as sent. -/
def normDesc (p : Params) (occTx : Bool) (d : Desc) : Desc where
  fflags := packFlags d.idp d.tpp d.alp (d.tpp && d.pl) (occWire occTx d)
  fid := if d.idp then d.fid else 0
  ftemp :=
    if d.tpp then
      BitVec.ofInt 16 (min (max d.ftemp.toInt (-(p.tempBias : Int))) (2047 - (p.tempBias : Int)))
    else 0
  fambl := if d.alp then d.fambl else 0

/-- A descriptor that some frame decodes to: one that can be sent and that sending would not change. -/
def Desc.canonical (p : Params) (d : Desc) : Prop := d.unsendable = false ∧ normDesc p true d = d

/-- A command run `n` times over, as long as it answers a next state. -/
def repeatCmd (o : Opcode) : Nat → State → Host.Outcome State Fault Refusal
  | 0, s => .next s
  | n + 1, s =>
    match exec o.instr s with
    | .next t => repeatCmd o n t
    | .fault f => .fault f
    | .refused r => .refused r

end Sys2Proof.Machine
end

