-- ==== Sys2Proof/Laws/Memory.lean ====
section
/-! SUPPORT. The laws of a memory held as a list of cells: reading after a write, and the canonical form, which every
memory operation keeps. -/

namespace Sys2Proof.Machine

/-- Every listed address is above `addr`. -/
abbrev Memory.above (addr : Nat) (m : List Host.Cell) : Prop := ∀ x ∈ m, addr < x.1

theorem Memory.lookup_of_above {addr : Nat} {m : List Host.Cell} (h : Memory.above addr m) :
    Memory.lookup addr m = none := by
  induction m with
  | nil => rfl
  | cons cell m ih =>
    have hc : addr < cell.1 := h cell (by simp)
    simp [Memory.lookup, Nat.ne_of_gt hc, ih fun x hx => h x (by simp [hx])]

theorem Memory.lookup_put (addr a : Nat) (v : Byte) (m : List Host.Cell) :
    Memory.lookup a (Memory.put addr v m) = if a = addr then some v else Memory.lookup a m := by
  induction m with
  | nil =>
    by_cases h : addr = a
    · simp [Memory.put, Memory.lookup, h]
    · simp [Memory.put, Memory.lookup, h, Ne.symm h]
  | cons cell m ih =>
    unfold Memory.put
    split
    · by_cases h : addr = a
      · simp [Memory.lookup, h]
      · simp only [Memory.lookup, if_neg h, if_neg (Ne.symm h)]
    · split
      · rename_i hEq
        by_cases h : addr = a
        · simp [Memory.lookup, h]
        · simp only [Memory.lookup, if_neg h, if_neg (Ne.symm h), ← hEq]
      · by_cases h : cell.1 = a
        · have : ¬ a = addr := by omega
          simp [Memory.lookup, h, this]
        · simp [Memory.lookup, h, ih]

theorem Memory.mem_put {addr : Nat} {v : Byte} {m : List Host.Cell} {x : Host.Cell}
    (h : x ∈ Memory.put addr v m) : x = (addr, v) ∨ x ∈ m := by
  induction m with
  | nil => simpa [Memory.put] using h
  | cons cell m ih =>
    unfold Memory.put at h
    split at h
    · simpa using h
    · split at h
      · rcases List.mem_cons.1 h with h | h <;> simp [h]
      · rcases List.mem_cons.1 h with h | h
        · simp [h]
        · rcases ih h with h | h <;> simp [h]

theorem Memory.mem_drop {addr : Nat} {m : List Host.Cell} {x : Host.Cell}
    (h : x ∈ Memory.drop addr m) : x ∈ m := by
  induction m with
  | nil => simp [Memory.drop] at h
  | cons cell m ih =>
    unfold Memory.drop at h
    split at h
    · simp [h]
    · rcases List.mem_cons.1 h with h | h
      · simp [h]
      · simp [ih h]

theorem Memory.lookup_drop {addr a : Nat} {m : List Host.Cell}
    (hm : m.Pairwise fun x y => x.1 < y.1) :
    Memory.lookup a (Memory.drop addr m) = if a = addr then none else Memory.lookup a m := by
  induction m with
  | nil => simp [Memory.drop, Memory.lookup]
  | cons cell m ih =>
    have ⟨hAbove, hRest⟩ := List.pairwise_cons.1 hm
    unfold Memory.drop
    split
    · rename_i hEq
      by_cases h : a = addr
      · simpa [h] using Memory.lookup_of_above fun x hx => hEq ▸ hAbove x hx
      · have : ¬ cell.1 = a := by omega
        simp [Memory.lookup, h, this]
    · by_cases h : cell.1 = a
      · have : ¬ a = addr := by omega
        simp [Memory.lookup, h, this]
      · simp [Memory.lookup, h, ih hRest]

theorem Memory.pairwise_put {addr : Nat} {v : Byte} {m : List Host.Cell}
    (hm : m.Pairwise fun x y => x.1 < y.1) :
    (Memory.put addr v m).Pairwise fun x y => x.1 < y.1 := by
  induction m with
  | nil => simp [Memory.put]
  | cons cell m ih =>
    have ⟨hAbove, hRest⟩ := List.pairwise_cons.1 hm
    unfold Memory.put
    split
    · rename_i hlt
      refine List.pairwise_cons.2 ⟨fun x hx => ?_, hm⟩
      rcases List.mem_cons.1 hx with rfl | hx
      · exact hlt
      · exact Nat.lt_trans hlt (hAbove x hx)
    · split
      · rename_i hEq
        exact List.pairwise_cons.2 ⟨fun x hx => hEq ▸ hAbove x hx, hRest⟩
      · refine List.pairwise_cons.2 ⟨fun x hx => ?_, ih hRest⟩
        rcases Memory.mem_put hx with rfl | hx
        · show cell.1 < addr
          omega
        · exact hAbove x hx

theorem Memory.pairwise_drop {addr : Nat} {m : List Host.Cell}
    (hm : m.Pairwise fun x y => x.1 < y.1) :
    (Memory.drop addr m).Pairwise fun x y => x.1 < y.1 := by
  induction m with
  | nil => simp [Memory.drop]
  | cons cell m ih =>
    have ⟨hAbove, hRest⟩ := List.pairwise_cons.1 hm
    unfold Memory.drop
    split
    · exact hRest
    · exact List.pairwise_cons.2 ⟨fun x hx => hAbove x (Memory.mem_drop hx), ih hRest⟩

/-- Reading after a write, of a memory in canonical form: the byte written at its address, every other byte as before.
An unlisted address reads as `dflt`, which is the blank value where there is one. -/
theorem Memory.read_write {size addr a : Nat} {blank : Option Byte} {v dflt : Byte} {m : List Host.Cell}
    (hm : Memory.wf size blank m) (hb : ∀ w, blank = some w → dflt = w) :
    (Memory.lookup a (Memory.write blank addr v m)).getD dflt =
      if a = addr then v else (Memory.lookup a m).getD dflt := by
  unfold Memory.write
  split
  · rename_i hv
    by_cases h : a = addr <;> simp [Memory.lookup_drop hm.1, h, hb v hv]
  · by_cases h : a = addr <;> simp [Memory.lookup_put, h]

/-- Every write keeps the canonical form. -/
theorem Memory.wf_write {size addr : Nat} {blank : Option Byte} {v : Byte} {m : List Host.Cell}
    (hm : Memory.wf size blank m) (ha : addr < size) : Memory.wf size blank (Memory.write blank addr v m) := by
  unfold Memory.write
  split
  · exact ⟨Memory.pairwise_drop hm.1, fun x hx => hm.2 x (Memory.mem_drop hx)⟩
  · rename_i hv
    refine ⟨Memory.pairwise_put hm.1, fun x hx => ?_⟩
    rcases Memory.mem_put hx with rfl | hx
    · exact ⟨ha, hv⟩
    · exact hm.2 x hx

/-- The memories of `State.reset` are in canonical form. -/
theorem Memory.wf_reset :
    Memory.wf bufSize none State.reset.buf ∧ Memory.wf 65536 (some byteFF) State.reset.nv := by
  decide

end Sys2Proof.Machine
end

