-- ==== Sys2Proof/Laws/State.lean ====
section
/-! SUPPORT. One lemma per field per update of the state, so that no later proof unfolds a record update. -/

namespace Sys2Proof.Machine

/-! ## `bufWrite` -/

@[simp] theorem bufWrite_cmd (off : Nat) (v : Byte) (s : State) : (bufWrite off v s).cmd = s.cmd := rfl
@[simp] theorem bufWrite_status (off : Nat) (v : Byte) (s : State) : (bufWrite off v s).status = s.status := rfl
@[simp] theorem bufWrite_cfg (off : Nat) (v : Byte) (s : State) : (bufWrite off v s).cfg = s.cfg := rfl
@[simp] theorem bufWrite_crc (off : Nat) (v : Byte) (s : State) : (bufWrite off v s).crc = s.crc := rfl
@[simp] theorem bufWrite_pos (off : Nat) (v : Byte) (s : State) : (bufWrite off v s).pos = s.pos := rfl
@[simp] theorem bufWrite_lim (off : Nat) (v : Byte) (s : State) : (bufWrite off v s).lim = s.lim := rfl
@[simp] theorem bufWrite_fflags (off : Nat) (v : Byte) (s : State) : (bufWrite off v s).fflags = s.fflags := rfl
@[simp] theorem bufWrite_fid (off : Nat) (v : Byte) (s : State) : (bufWrite off v s).fid = s.fid := rfl
@[simp] theorem bufWrite_ftemp (off : Nat) (v : Byte) (s : State) : (bufWrite off v s).ftemp = s.ftemp := rfl
@[simp] theorem bufWrite_fambl (off : Nat) (v : Byte) (s : State) : (bufWrite off v s).fambl = s.fambl := rfl
@[simp] theorem bufWrite_a (off : Nat) (v : Byte) (s : State) : (bufWrite off v s).a = s.a := rfl
@[simp] theorem bufWrite_b (off : Nat) (v : Byte) (s : State) : (bufWrite off v s).b = s.b := rfl
@[simp] theorem bufWrite_c (off : Nat) (v : Byte) (s : State) : (bufWrite off v s).c = s.c := rfl
@[simp] theorem bufWrite_h (off : Nat) (v : Byte) (s : State) : (bufWrite off v s).h = s.h := rfl
@[simp] theorem bufWrite_q (off : Nat) (v : Byte) (s : State) : (bufWrite off v s).q = s.q := rfl
@[simp] theorem bufWrite_nv (off : Nat) (v : Byte) (s : State) : (bufWrite off v s).nv = s.nv := rfl
@[simp] theorem bufWrite_params (off : Nat) (v : Byte) (s : State) : (bufWrite off v s).params = s.params := rfl
@[simp] theorem bufWrite_rndIn (off : Nat) (v : Byte) (s : State) : (bufWrite off v s).rndIn = s.rndIn := rfl
@[simp] theorem bufWrite_rndTaken (off : Nat) (v : Byte) (s : State) : (bufWrite off v s).rndTaken = s.rndTaken := rfl
@[simp] theorem bufWrite_busData (off : Nat) (v : Byte) (s : State) : (bufWrite off v s).busData = s.busData := rfl
@[simp] theorem bufWrite_resets (off : Nat) (v : Byte) (s : State) : (bufWrite off v s).resets = s.resets := rfl
@[simp] theorem bufWrite_pending (off : Nat) (v : Byte) (s : State) : (bufWrite off v s).pending = s.pending := rfl

/-! ## `nvWrite` -/

@[simp] theorem nvWrite_cmd (addr : Nat) (v : Byte) (s : State) : (nvWrite addr v s).cmd = s.cmd := rfl
@[simp] theorem nvWrite_status (addr : Nat) (v : Byte) (s : State) : (nvWrite addr v s).status = s.status := rfl
@[simp] theorem nvWrite_cfg (addr : Nat) (v : Byte) (s : State) : (nvWrite addr v s).cfg = s.cfg := rfl
@[simp] theorem nvWrite_crc (addr : Nat) (v : Byte) (s : State) : (nvWrite addr v s).crc = s.crc := rfl
@[simp] theorem nvWrite_pos (addr : Nat) (v : Byte) (s : State) : (nvWrite addr v s).pos = s.pos := rfl
@[simp] theorem nvWrite_lim (addr : Nat) (v : Byte) (s : State) : (nvWrite addr v s).lim = s.lim := rfl
@[simp] theorem nvWrite_fflags (addr : Nat) (v : Byte) (s : State) : (nvWrite addr v s).fflags = s.fflags := rfl
@[simp] theorem nvWrite_fid (addr : Nat) (v : Byte) (s : State) : (nvWrite addr v s).fid = s.fid := rfl
@[simp] theorem nvWrite_ftemp (addr : Nat) (v : Byte) (s : State) : (nvWrite addr v s).ftemp = s.ftemp := rfl
@[simp] theorem nvWrite_fambl (addr : Nat) (v : Byte) (s : State) : (nvWrite addr v s).fambl = s.fambl := rfl
@[simp] theorem nvWrite_a (addr : Nat) (v : Byte) (s : State) : (nvWrite addr v s).a = s.a := rfl
@[simp] theorem nvWrite_b (addr : Nat) (v : Byte) (s : State) : (nvWrite addr v s).b = s.b := rfl
@[simp] theorem nvWrite_c (addr : Nat) (v : Byte) (s : State) : (nvWrite addr v s).c = s.c := rfl
@[simp] theorem nvWrite_h (addr : Nat) (v : Byte) (s : State) : (nvWrite addr v s).h = s.h := rfl
@[simp] theorem nvWrite_q (addr : Nat) (v : Byte) (s : State) : (nvWrite addr v s).q = s.q := rfl
@[simp] theorem nvWrite_buf (addr : Nat) (v : Byte) (s : State) : (nvWrite addr v s).buf = s.buf := rfl
@[simp] theorem nvWrite_params (addr : Nat) (v : Byte) (s : State) : (nvWrite addr v s).params = s.params := rfl
@[simp] theorem nvWrite_rndIn (addr : Nat) (v : Byte) (s : State) : (nvWrite addr v s).rndIn = s.rndIn := rfl
@[simp] theorem nvWrite_rndTaken (addr : Nat) (v : Byte) (s : State) : (nvWrite addr v s).rndTaken = s.rndTaken := rfl
@[simp] theorem nvWrite_busData (addr : Nat) (v : Byte) (s : State) : (nvWrite addr v s).busData = s.busData := rfl
@[simp] theorem nvWrite_resets (addr : Nat) (v : Byte) (s : State) : (nvWrite addr v s).resets = s.resets := rfl
@[simp] theorem nvWrite_pending (addr : Nat) (v : Byte) (s : State) : (nvWrite addr v s).pending = s.pending := rfl

/-! ## `succeed` -/

@[simp] theorem succeed_cmd (fin : Bool) (s : State) : (succeed fin s).cmd = s.cmd := rfl
@[simp] theorem succeed_status (fin : Bool) (s : State) : (succeed fin s).status = okStatus fin := rfl
@[simp] theorem succeed_cfg (fin : Bool) (s : State) : (succeed fin s).cfg = s.cfg := rfl
@[simp] theorem succeed_crc (fin : Bool) (s : State) : (succeed fin s).crc = s.crc := rfl
@[simp] theorem succeed_pos (fin : Bool) (s : State) : (succeed fin s).pos = s.pos := rfl
@[simp] theorem succeed_lim (fin : Bool) (s : State) : (succeed fin s).lim = s.lim := rfl
@[simp] theorem succeed_fflags (fin : Bool) (s : State) : (succeed fin s).fflags = s.fflags := rfl
@[simp] theorem succeed_fid (fin : Bool) (s : State) : (succeed fin s).fid = s.fid := rfl
@[simp] theorem succeed_ftemp (fin : Bool) (s : State) : (succeed fin s).ftemp = s.ftemp := rfl
@[simp] theorem succeed_fambl (fin : Bool) (s : State) : (succeed fin s).fambl = s.fambl := rfl
@[simp] theorem succeed_a (fin : Bool) (s : State) : (succeed fin s).a = s.a := rfl
@[simp] theorem succeed_b (fin : Bool) (s : State) : (succeed fin s).b = s.b := rfl
@[simp] theorem succeed_c (fin : Bool) (s : State) : (succeed fin s).c = s.c := rfl
@[simp] theorem succeed_h (fin : Bool) (s : State) : (succeed fin s).h = s.h := rfl
@[simp] theorem succeed_q (fin : Bool) (s : State) : (succeed fin s).q = s.q := rfl
@[simp] theorem succeed_buf (fin : Bool) (s : State) : (succeed fin s).buf = s.buf := rfl
@[simp] theorem succeed_nv (fin : Bool) (s : State) : (succeed fin s).nv = s.nv := rfl
@[simp] theorem succeed_params (fin : Bool) (s : State) : (succeed fin s).params = s.params := rfl
@[simp] theorem succeed_rndIn (fin : Bool) (s : State) : (succeed fin s).rndIn = s.rndIn := rfl
@[simp] theorem succeed_rndTaken (fin : Bool) (s : State) : (succeed fin s).rndTaken = s.rndTaken := rfl
@[simp] theorem succeed_busData (fin : Bool) (s : State) : (succeed fin s).busData = s.busData := rfl
@[simp] theorem succeed_resets (fin : Bool) (s : State) : (succeed fin s).resets = s.resets := rfl
@[simp] theorem succeed_pending (fin : Bool) (s : State) : (succeed fin s).pending = s.pending := rfl

/-! ## `raiseFail` -/

@[simp] theorem raiseFail_cmd (e : FailCode) (s : State) : (raiseFail e s).cmd = s.cmd := rfl
@[simp] theorem raiseFail_status (e : FailCode) (s : State) : (raiseFail e s).status = failStatus e := rfl
@[simp] theorem raiseFail_cfg (e : FailCode) (s : State) : (raiseFail e s).cfg = s.cfg := rfl
@[simp] theorem raiseFail_crc (e : FailCode) (s : State) : (raiseFail e s).crc = s.crc := rfl
@[simp] theorem raiseFail_pos (e : FailCode) (s : State) : (raiseFail e s).pos = s.pos := rfl
@[simp] theorem raiseFail_lim (e : FailCode) (s : State) : (raiseFail e s).lim = s.lim := rfl
@[simp] theorem raiseFail_fflags (e : FailCode) (s : State) : (raiseFail e s).fflags = s.fflags := rfl
@[simp] theorem raiseFail_fid (e : FailCode) (s : State) : (raiseFail e s).fid = s.fid := rfl
@[simp] theorem raiseFail_ftemp (e : FailCode) (s : State) : (raiseFail e s).ftemp = s.ftemp := rfl
@[simp] theorem raiseFail_fambl (e : FailCode) (s : State) : (raiseFail e s).fambl = s.fambl := rfl
@[simp] theorem raiseFail_a (e : FailCode) (s : State) : (raiseFail e s).a = s.a := rfl
@[simp] theorem raiseFail_b (e : FailCode) (s : State) : (raiseFail e s).b = s.b := rfl
@[simp] theorem raiseFail_c (e : FailCode) (s : State) : (raiseFail e s).c = s.c := rfl
@[simp] theorem raiseFail_h (e : FailCode) (s : State) : (raiseFail e s).h = s.h := rfl
@[simp] theorem raiseFail_q (e : FailCode) (s : State) : (raiseFail e s).q = s.q := rfl
@[simp] theorem raiseFail_buf (e : FailCode) (s : State) : (raiseFail e s).buf = s.buf := rfl
@[simp] theorem raiseFail_nv (e : FailCode) (s : State) : (raiseFail e s).nv = s.nv := rfl
@[simp] theorem raiseFail_params (e : FailCode) (s : State) : (raiseFail e s).params = s.params := rfl
@[simp] theorem raiseFail_rndIn (e : FailCode) (s : State) : (raiseFail e s).rndIn = s.rndIn := rfl
@[simp] theorem raiseFail_rndTaken (e : FailCode) (s : State) : (raiseFail e s).rndTaken = s.rndTaken := rfl
@[simp] theorem raiseFail_busData (e : FailCode) (s : State) : (raiseFail e s).busData = s.busData := rfl
@[simp] theorem raiseFail_resets (e : FailCode) (s : State) : (raiseFail e s).resets = s.resets := rfl
@[simp] theorem raiseFail_pending (e : FailCode) (s : State) : (raiseFail e s).pending = s.pending := rfl

/-! ## `emptyDescriptor` -/

@[simp] theorem emptyDescriptor_cmd (s : State) : (emptyDescriptor s).cmd = s.cmd := rfl
@[simp] theorem emptyDescriptor_status (s : State) : (emptyDescriptor s).status = s.status := rfl
@[simp] theorem emptyDescriptor_cfg (s : State) : (emptyDescriptor s).cfg = s.cfg := rfl
@[simp] theorem emptyDescriptor_crc (s : State) : (emptyDescriptor s).crc = s.crc := rfl
@[simp] theorem emptyDescriptor_pos (s : State) : (emptyDescriptor s).pos = s.pos := rfl
@[simp] theorem emptyDescriptor_lim (s : State) : (emptyDescriptor s).lim = s.lim := rfl
@[simp] theorem emptyDescriptor_fflags (s : State) : (emptyDescriptor s).fflags = 0 := rfl
@[simp] theorem emptyDescriptor_fid (s : State) : (emptyDescriptor s).fid = 0 := rfl
@[simp] theorem emptyDescriptor_ftemp (s : State) : (emptyDescriptor s).ftemp = 0 := rfl
@[simp] theorem emptyDescriptor_fambl (s : State) : (emptyDescriptor s).fambl = 0 := rfl
@[simp] theorem emptyDescriptor_a (s : State) : (emptyDescriptor s).a = s.a := rfl
@[simp] theorem emptyDescriptor_b (s : State) : (emptyDescriptor s).b = s.b := rfl
@[simp] theorem emptyDescriptor_c (s : State) : (emptyDescriptor s).c = s.c := rfl
@[simp] theorem emptyDescriptor_h (s : State) : (emptyDescriptor s).h = s.h := rfl
@[simp] theorem emptyDescriptor_q (s : State) : (emptyDescriptor s).q = s.q := rfl
@[simp] theorem emptyDescriptor_buf (s : State) : (emptyDescriptor s).buf = s.buf := rfl
@[simp] theorem emptyDescriptor_nv (s : State) : (emptyDescriptor s).nv = s.nv := rfl
@[simp] theorem emptyDescriptor_params (s : State) : (emptyDescriptor s).params = s.params := rfl
@[simp] theorem emptyDescriptor_rndIn (s : State) : (emptyDescriptor s).rndIn = s.rndIn := rfl
@[simp] theorem emptyDescriptor_rndTaken (s : State) : (emptyDescriptor s).rndTaken = s.rndTaken := rfl
@[simp] theorem emptyDescriptor_busData (s : State) : (emptyDescriptor s).busData = s.busData := rfl
@[simp] theorem emptyDescriptor_resets (s : State) : (emptyDescriptor s).resets = s.resets := rfl
@[simp] theorem emptyDescriptor_pending (s : State) : (emptyDescriptor s).pending = s.pending := rfl

/-! ## `setDesc` -/

@[simp] theorem setDesc_cmd (d : Desc) (s : State) : (s.setDesc d).cmd = s.cmd := rfl
@[simp] theorem setDesc_status (d : Desc) (s : State) : (s.setDesc d).status = s.status := rfl
@[simp] theorem setDesc_cfg (d : Desc) (s : State) : (s.setDesc d).cfg = s.cfg := rfl
@[simp] theorem setDesc_crc (d : Desc) (s : State) : (s.setDesc d).crc = s.crc := rfl
@[simp] theorem setDesc_pos (d : Desc) (s : State) : (s.setDesc d).pos = s.pos := rfl
@[simp] theorem setDesc_lim (d : Desc) (s : State) : (s.setDesc d).lim = s.lim := rfl
@[simp] theorem setDesc_fflags (d : Desc) (s : State) : (s.setDesc d).fflags = d.fflags := rfl
@[simp] theorem setDesc_fid (d : Desc) (s : State) : (s.setDesc d).fid = d.fid := rfl
@[simp] theorem setDesc_ftemp (d : Desc) (s : State) : (s.setDesc d).ftemp = d.ftemp := rfl
@[simp] theorem setDesc_fambl (d : Desc) (s : State) : (s.setDesc d).fambl = d.fambl := rfl
@[simp] theorem setDesc_a (d : Desc) (s : State) : (s.setDesc d).a = s.a := rfl
@[simp] theorem setDesc_b (d : Desc) (s : State) : (s.setDesc d).b = s.b := rfl
@[simp] theorem setDesc_c (d : Desc) (s : State) : (s.setDesc d).c = s.c := rfl
@[simp] theorem setDesc_h (d : Desc) (s : State) : (s.setDesc d).h = s.h := rfl
@[simp] theorem setDesc_q (d : Desc) (s : State) : (s.setDesc d).q = s.q := rfl
@[simp] theorem setDesc_buf (d : Desc) (s : State) : (s.setDesc d).buf = s.buf := rfl
@[simp] theorem setDesc_nv (d : Desc) (s : State) : (s.setDesc d).nv = s.nv := rfl
@[simp] theorem setDesc_params (d : Desc) (s : State) : (s.setDesc d).params = s.params := rfl
@[simp] theorem setDesc_rndIn (d : Desc) (s : State) : (s.setDesc d).rndIn = s.rndIn := rfl
@[simp] theorem setDesc_rndTaken (d : Desc) (s : State) : (s.setDesc d).rndTaken = s.rndTaken := rfl
@[simp] theorem setDesc_busData (d : Desc) (s : State) : (s.setDesc d).busData = s.busData := rfl
@[simp] theorem setDesc_resets (d : Desc) (s : State) : (s.setDesc d).resets = s.resets := rfl
@[simp] theorem setDesc_pending (d : Desc) (s : State) : (s.setDesc d).pending = s.pending := rfl

/-! ## `advance` -/

@[simp] theorem advance_cmd (n : Nat) (s : State) : (s.advance n).cmd = s.cmd := rfl
@[simp] theorem advance_status (n : Nat) (s : State) : (s.advance n).status = s.status := rfl
@[simp] theorem advance_cfg (n : Nat) (s : State) : (s.advance n).cfg = s.cfg := rfl
@[simp] theorem advance_crc (n : Nat) (s : State) : (s.advance n).crc = s.crc := rfl
@[simp] theorem advance_pos (n : Nat) (s : State) : (s.advance n).pos = BitVec.ofNat 8 (s.pos.toNat + n) := rfl
@[simp] theorem advance_lim (n : Nat) (s : State) : (s.advance n).lim = s.lim := rfl
@[simp] theorem advance_fflags (n : Nat) (s : State) : (s.advance n).fflags = s.fflags := rfl
@[simp] theorem advance_fid (n : Nat) (s : State) : (s.advance n).fid = s.fid := rfl
@[simp] theorem advance_ftemp (n : Nat) (s : State) : (s.advance n).ftemp = s.ftemp := rfl
@[simp] theorem advance_fambl (n : Nat) (s : State) : (s.advance n).fambl = s.fambl := rfl
@[simp] theorem advance_a (n : Nat) (s : State) : (s.advance n).a = s.a := rfl
@[simp] theorem advance_b (n : Nat) (s : State) : (s.advance n).b = s.b := rfl
@[simp] theorem advance_c (n : Nat) (s : State) : (s.advance n).c = s.c := rfl
@[simp] theorem advance_h (n : Nat) (s : State) : (s.advance n).h = s.h := rfl
@[simp] theorem advance_q (n : Nat) (s : State) : (s.advance n).q = s.q := rfl
@[simp] theorem advance_buf (n : Nat) (s : State) : (s.advance n).buf = s.buf := rfl
@[simp] theorem advance_nv (n : Nat) (s : State) : (s.advance n).nv = s.nv := rfl
@[simp] theorem advance_params (n : Nat) (s : State) : (s.advance n).params = s.params := rfl
@[simp] theorem advance_rndIn (n : Nat) (s : State) : (s.advance n).rndIn = s.rndIn := rfl
@[simp] theorem advance_rndTaken (n : Nat) (s : State) : (s.advance n).rndTaken = s.rndTaken := rfl
@[simp] theorem advance_busData (n : Nat) (s : State) : (s.advance n).busData = s.busData := rfl
@[simp] theorem advance_resets (n : Nat) (s : State) : (s.advance n).resets = s.resets := rfl
@[simp] theorem advance_pending (n : Nat) (s : State) : (s.advance n).pending = s.pending := rfl

/-! ## `resetBlock` -/

@[simp] theorem resetBlock_cmd (s : State) : (resetBlock s).cmd = 0 := rfl
@[simp] theorem resetBlock_status (s : State) : (resetBlock s).status = 0 := rfl
@[simp] theorem resetBlock_cfg (s : State) : (resetBlock s).cfg = 0 := rfl
@[simp] theorem resetBlock_crc (s : State) : (resetBlock s).crc = 0 := rfl
@[simp] theorem resetBlock_pos (s : State) : (resetBlock s).pos = 0 := rfl
@[simp] theorem resetBlock_lim (s : State) : (resetBlock s).lim = 0 := rfl
@[simp] theorem resetBlock_fflags (s : State) : (resetBlock s).fflags = 0 := rfl
@[simp] theorem resetBlock_fid (s : State) : (resetBlock s).fid = 0 := rfl
@[simp] theorem resetBlock_ftemp (s : State) : (resetBlock s).ftemp = 0 := rfl
@[simp] theorem resetBlock_fambl (s : State) : (resetBlock s).fambl = 0 := rfl
@[simp] theorem resetBlock_a (s : State) : (resetBlock s).a = 0 := rfl
@[simp] theorem resetBlock_b (s : State) : (resetBlock s).b = 0 := rfl
@[simp] theorem resetBlock_c (s : State) : (resetBlock s).c = 0 := rfl
@[simp] theorem resetBlock_h (s : State) : (resetBlock s).h = 0 := rfl
@[simp] theorem resetBlock_q (s : State) : (resetBlock s).q = 0 := rfl
@[simp] theorem resetBlock_buf (s : State) : (resetBlock s).buf = [] := rfl
@[simp] theorem resetBlock_nv (s : State) : (resetBlock s).nv = s.nv := rfl
@[simp] theorem resetBlock_params (s : State) : (resetBlock s).params = s.params := rfl
@[simp] theorem resetBlock_rndIn (s : State) : (resetBlock s).rndIn = s.rndIn := rfl
@[simp] theorem resetBlock_rndTaken (s : State) : (resetBlock s).rndTaken = s.rndTaken := rfl
@[simp] theorem resetBlock_busData (s : State) : (resetBlock s).busData = s.busData := rfl
@[simp] theorem resetBlock_resets (s : State) : (resetBlock s).resets = s.resets + 1 := rfl
@[simp] theorem resetBlock_pending (s : State) : (resetBlock s).pending = s.pending := rfl

end Sys2Proof.Machine
end

