-- ==== Sys2Proof/Laws/Ops.lean ====
section
/-! SUPPORT. What each shared operation can do, said once. -/

namespace Sys2Proof.Machine

/-! ## The frame buffer -/

/-- A buffer write: the byte at its offset, every other byte as before. No hypothesis on the list is needed: a buffer
write never takes an entry off it. -/
theorem bufRead_bufWrite (s : State) (off a : Nat) (v : Byte) :
    bufRead (bufWrite off v s) a = if a = off then v else bufRead s a := by
  simp only [bufRead, bufWrite, Memory.write, reduceCtorEq, if_false, Memory.lookup_put]
  split <;> rfl

/-- A run of bytes changes nothing but the buffer. -/
theorem bufWriteList_eq (off : Nat) (vs : List Byte) (s : State) :
    bufWriteList off vs s = { s with buf := (bufWriteList off vs s).buf } := by
  induction vs generalizing off s with
  | nil => rfl
  | cons v vs ih =>
    show bufWriteList (off + 1) vs (bufWrite off v s) = _
    rw [ih]
    rfl

/-- A run of bytes: byte `j` of the run at `off + j`, every byte outside the run as before. -/
theorem bufRead_bufWriteList (off : Nat) (vs : List Byte) (s : State) (a : Nat) :
    bufRead (bufWriteList off vs s) a =
      if h : off ≤ a ∧ a < off + vs.length then vs[a - off]'(by omega) else bufRead s a := by
  induction vs generalizing off s with
  | nil => simp [bufWriteList]
  | cons v vs ih =>
    rw [bufWriteList, ih, bufRead_bufWrite]
    by_cases h0 : a = off
    · subst h0
      simp
    · by_cases h : off + 1 ≤ a ∧ a < off + 1 + vs.length
      · have h' : off ≤ a ∧ a < off + (v :: vs).length := by simp; omega
        have hsub : a - off = (a - (off + 1)) + 1 := by omega
        simp only [h, h', and_self, dif_pos, hsub, List.getElem_cons_succ]
      · have h' : ¬ (off ≤ a ∧ a < off + (v :: vs).length) := by simp; omega
        rw [dif_neg h, dif_neg h', if_neg h0]

/-- A run of bytes inside the buffer keeps its canonical form. -/
theorem bufWriteList_wf {off : Nat} {vs : List Byte} {s : State}
    (hs : Memory.wf bufSize none s.buf) (h : off + vs.length ≤ bufSize) :
    Memory.wf bufSize none (bufWriteList off vs s).buf := by
  induction vs generalizing off s with
  | nil => exact hs
  | cons v vs ih =>
    simp only [List.length_cons] at h
    exact ih (Memory.wf_write hs (by omega)) (by omega)

@[simp] theorem bufBytes_length (s : State) (off n : Nat) : (bufBytes s off n).length = n := by
  simp [bufBytes]

/-- Byte `j` of a run read from the buffer. -/
theorem bufBytes_getElem (s : State) (off n j : Nat) (h : j < (bufBytes s off n).length) :
    (bufBytes s off n)[j] = bufRead s (off + j) := by
  simp [bufBytes]

/-- A run of bytes read back where it was written. -/
theorem bufBytes_bufWriteList (off : Nat) (vs : List Byte) (s : State) :
    bufBytes (bufWriteList off vs s) off vs.length = vs := by
  refine List.ext_getElem (by simp) fun j h1 h2 => ?_
  rw [bufBytes_getElem, bufRead_bufWriteList, dif_pos ⟨by omega, by omega⟩]
  simp

/-- The first `k` bytes of a run of `n`. -/
theorem bufBytes_take (s : State) (off n k : Nat) (h : k ≤ n) : (bufBytes s off n).take k = bufBytes s off k := by
  refine List.ext_getElem (by simp [h]) fun j h1 h2 => ?_
  simp [bufBytes]

/-- Runs are read from the buffer alone. -/
theorem bufBytes_congr {s t : State} (hb : t.buf = s.buf) (hr : t.resets = s.resets) (off n : Nat) :
    bufBytes t off n = bufBytes s off n := by
  simp [bufBytes, bufRead, hb, hr]

/-! ## The store -/

/-- A store write, on a store in canonical form. -/
theorem nvRead_nvWrite {s : State} (hs : Memory.wf 65536 (some byteFF) s.nv) (addr a : Nat) (v : Byte) :
    nvRead (nvWrite addr v s) a = if a = addr then v else nvRead s a :=
  Memory.read_write hs fun w hw => by simpa using hw

theorem nvWrite_wf {s : State} (hs : Memory.wf 65536 (some byteFF) s.nv) {addr : Nat} (ha : addr < 65536) (v : Byte) :
    Memory.wf 65536 (some byteFF) (nvWrite addr v s).nv :=
  Memory.wf_write hs ha

/-- `NvUpdate` reads as a plain write (20_memory.md R78). -/
theorem nvRead_nvUpdate {s : State} (hs : Memory.wf 65536 (some byteFF) s.nv) (addr a : Nat) (v : Byte) :
    nvRead (nvUpdate addr v s).1 a = if a = addr then v else nvRead s a := by
  unfold nvUpdate
  split
  · rename_i h
    by_cases ha : a = addr <;> simp [ha, h]
  · exact nvRead_nvWrite hs addr a v

/-- `NvUpdate` changes nothing but the store. -/
theorem nvUpdate_eq (addr : Nat) (v : Byte) (s : State) :
    (nvUpdate addr v s).1 = { s with nv := (nvUpdate addr v s).1.nv } := by
  unfold nvUpdate
  split <;> rfl

theorem nvUpdate_wf {s : State} (hs : Memory.wf 65536 (some byteFF) s.nv) {addr : Nat} (ha : addr < 65536) (v : Byte) :
    Memory.wf 65536 (some byteFF) (nvUpdate addr v s).1.nv := by
  unfold nvUpdate
  split
  · exact hs
  · exact nvWrite_wf hs ha v

/-- `NvErase` reads as a write of `0xFF` (20_memory.md R79). -/
theorem nvRead_nvErase {s : State} (hs : Memory.wf 65536 (some byteFF) s.nv) (addr a : Nat) :
    nvRead (nvErase addr s).1 a = if a = addr then byteFF else nvRead s a := by
  unfold nvErase
  split
  · rename_i h
    by_cases ha : a = addr <;> simp [ha, h]
  · exact nvRead_nvWrite hs addr a byteFF

/-- `NvErase` changes nothing but the store. -/
theorem nvErase_eq (addr : Nat) (s : State) :
    (nvErase addr s).1 = { s with nv := (nvErase addr s).1.nv } := by
  unfold nvErase
  split <;> rfl

theorem nvErase_wf {s : State} (hs : Memory.wf 65536 (some byteFF) s.nv) {addr : Nat} (ha : addr < 65536) :
    Memory.wf 65536 (some byteFF) (nvErase addr s).1.nv := by
  unfold nvErase
  split
  · exact hs
  · exact nvWrite_wf hs ha byteFF

/-! ## The random port -/

/-- One draw: the next supplied sample, or a free value; nothing else of the state changes. -/
theorem drawRnd_eq (s : State) :
    (drawRnd s).2 = { s with rndIn := s.rndIn.tail, rndTaken := s.rndTaken + 1 } ∧
    (drawRnd s).1 = s.rndIn.headD (Config.rndFree s.rndTaken) := by
  cases h : s.rndIn <;> simp [drawRnd, h]

/-! ## A command -/

/-- Every command answers a next state: its body's with `STATUS` written last, or the failure's. -/
theorem runCommand_eq (op : Byte) (body : State → Except FailCode (State × Bool)) (onFail : State → State) (s : State) :
    runCommand op body onFail s =
      .next (match body { s with cmd := op } with
        | .ok r => succeed r.2 r.1
        | .error e => raiseFail e (onFail { s with cmd := op })) := by
  unfold runCommand
  cases body { s with cmd := op } <;> rfl

theorem runCommand_ok {op : Byte} {body : State → Except FailCode (State × Bool)} {onFail : State → State} {s t : State}
    {fin : Bool} (h : body { s with cmd := op } = .ok (t, fin)) :
    runCommand op body onFail s = .next (succeed fin t) := by
  simp [runCommand, h]

theorem runCommand_error {op : Byte} {body : State → Except FailCode (State × Bool)} {onFail : State → State} {s : State}
    {e : FailCode} (h : body { s with cmd := op } = .error e) :
    runCommand op body onFail s = .next (raiseFail e (onFail { s with cmd := op })) := by
  simp [runCommand, h]

/-- The opcode of a command, run through `CMD`, is that command (30_encoding.md R103). -/
theorem runOpcode_eq_exec (o : Opcode) (s : State) : runOpcode o s = exec o.instr s := by
  cases o <;> rfl

/-! ## The erase loop -/

/-- The loop of `ST.ZAP` changes nothing but the store. -/
theorem zapLoop_eq (budget : Nat) (as : List Nat) (n : Nat) (s : State) :
    (zapLoop budget as n s).1 = { s with nv := (zapLoop budget as n s).1.nv } := by
  induction as generalizing n s with
  | nil => rfl
  | cons a as ih =>
    unfold zapLoop
    split
    · exact ih n s
    · split
      · rfl
      · rw [ih, nvErase_eq]

theorem zapLoop_wf {budget : Nat} {as : List Nat} {n : Nat} {s : State}
    (hs : Memory.wf 65536 (some byteFF) s.nv) (ha : ∀ a ∈ as, a < 65536) :
    Memory.wf 65536 (some byteFF) (zapLoop budget as n s).1.nv := by
  induction as generalizing n s with
  | nil => exact hs
  | cons a as ih =>
    unfold zapLoop
    split
    · exact ih hs fun x hx => ha x (by simp [hx])
    · split
      · exact hs
      · exact ih (nvErase_wf hs (ha a (by simp))) fun x hx => ha x (by simp [hx])

end Sys2Proof.Machine
end

