-- ==== Sys2Proof/Certificates/Slice0/Obligations.lean ====
section
/-! DEFINITION. The statements about the block. Values are written with `Nat` and `Int` arithmetic of the rule's own form,
not with the bit operations the meanings use, wherever a rule gives a formula. -/

open Sys2Proof Sys2Proof.Machine

/-! ## Words the statements use -/

/-- The width of a register (10_state.md section 1). -/
def regWidth : Reg → Nat
  | .cfg => 2
  | .h => 5
  | .fflags => 6
  | .crc => 7
  | .cmd | .status | .pos | .lim | .fambl | .b | .c => 8
  | .fid | .ftemp | .a | .q => 16

/-- A register's value as a number. -/
def regValue (r : Reg) (s : State) : Nat :=
  match r with
  | .cmd => s.cmd.toNat
  | .status => s.status.toNat
  | .cfg => s.cfg.toNat
  | .crc => s.crc.toNat
  | .pos => s.pos.toNat
  | .lim => s.lim.toNat
  | .fflags => s.fflags.toNat
  | .fid => s.fid.toNat
  | .ftemp => s.ftemp.toNat
  | .fambl => s.fambl.toNat
  | .a => s.a.toNat
  | .b => s.b.toNat
  | .c => s.c.toNat
  | .h => s.h.toNat
  | .q => s.q.toNat

/-- The value of a frame byte, from the pictures of 30_encoding.md R110. -/
def wireValue : WireByte → Nat
  | .fullHeader idp idh sec => 0x70 + 4 * idp.toNat + 2 * idh.toNat + sec.toNat
  | .idByte id => id.toNat
  | .tpByte0 pl lo => 0x40 + 16 * pl.toNat + lo.toNat
  | .tpByte1 hi => hi.toNat
  | .flags alp occ => 0x60 + 8 * alp.toNat + occ.toNat
  | .ambientLight level => level.toNat
  | .crc c => c.toNat
  | .terminator => 0xFF

/-- A temperature clamped into the representable range (44_minimal_trailer.md R216). -/
def clampTemp (p : Params) (t : Int) : Int := min (max t (-(p.tempBias : Int))) (2047 - (p.tempBias : Int))

/-- The two bytes of a temperature and power section, as numbers (44_minimal_trailer.md R217). -/
def sectionBytes (p : Params) (t : Int) (pl : Bool) : List Byte :=
  let b := (clampTemp p t + p.tempBias).toNat
  [BitVec.ofNat 8 (0x40 + 16 * pl.toNat + b % 16), BitVec.ofNat 8 (b / 16)]

/-- The three bytes of a minimal trailer (30_encoding.md R111). -/
def trailerOf (p : Params) (t : Int) (pl : Bool) : List Byte :=
  sectionBytes p t pl ++ [BitVec.ofNat 8 (crc7 0 (sectionBytes p t pl)).toNat]

/-- The payload of the frame of a descriptor, as numbers (30_encoding.md R112 to R116, R119; 45_full_frame.md R238). -/
def payloadOf (p : Params) (occTx : Bool) (d : Desc) : List Byte :=
  [BitVec.ofNat 8 (0x70 + 4 * d.idp.toNat + 2 * (d.idp && d.fid.toNat / 128 % 2 == 1).toNat)]
  ++ (if d.idp then [BitVec.ofNat 8 (d.fid.toNat % 128), BitVec.ofNat 8 (d.fid.toNat / 256 % 128)] else [])
  ++ (if d.tpp then sectionBytes p d.ftemp.toInt d.pl else [])
  ++ [BitVec.ofNat 8 (0x60 + 8 * d.alp.toNat + (if occTx then d.fflags.toNat / 16 else 0))]
  ++ (if d.alp then [d.fambl] else [])

/-- Payload and CRC byte of the frame of a descriptor (30_encoding.md R117). -/
def frameOf (p : Params) (occTx : Bool) (d : Desc) : List Byte :=
  payloadOf p occTx d ++ [BitVec.ofNat 8 (crc7 p.fullCrcSeed (payloadOf p occTx d)).toNat]

/-- An ID or a light value the encoder refuses (60_exceptions.md R271 (c), (d)). -/
def refusedFields (d : Desc) : Prop :=
  (d.idp = true ∧ (d.fid.toNat % 256 = 0xFF ∨ d.fid.toNat / 256 = 0xFF ∨
    d.fid.toNat / 128 % 2 ≠ d.fid.toNat / 32768)) ∨
  (d.alp = true ∧ (d.fambl = 0x00 ∨ d.fambl = 0xFF))

/-- The window `[POS, LIM)` is inside the buffer (10_state.md R37). -/
def goodWindow (s : State) : Prop := s.pos.toNat ≤ s.lim.toNat ∧ s.lim.toNat ≤ 64

/-! ## Reset and the events of the outside world -/

/-- R55: every register is 0 after reset; and with `LIM` = 0, as reset leaves it, no frame command succeeds. -/
def Obligations.ResetPutsEveryRegisterToZero : Prop :=
  (∀ r, regValue r State.reset = 0) ∧
  (∀ s : State, s.lim = 0 → ∀ o, isFrameCommand o = true →
    ∃ t, exec o.instr s = .next t ∧ t.ok = false)

/-- R300, R55, R57, R303: a reset of a block in use puts every register to 0 and leaves the store, the parameters and
what the outside world does next; right after it an encode fails with `E_NOSPACE` and a decode with `E_WIRE`. -/
def Obligations.ResetKeepsStoreAndClearsRegisters : Prop :=
  ∀ (s : State) (rest : List HostEvent), s.pending = .reset :: rest →
    ∃ t, step s = .next t ∧ (∀ r, regValue r t = 0) ∧ SameNv s t ∧ t.params = s.params ∧ t.pending = rest ∧
      NoDraw s t ∧
      (∃ u, exec .mtpEnc t = .next u ∧ u.status = 0x30) ∧ (∃ u, exec .fsmEnc t = .next u ∧ u.status = 0x30) ∧
      (∃ u, exec .mtpDec t = .next u ∧ u.status = 0x20) ∧ (∃ u, exec .fsmDec t = .next u ∧ u.status = 0x20)

/-- The model's stream of events (log 1): a host line that decodes is executed on the state without it; a line that does
not decode is refused by name. -/
def Obligations.StepRunsTheDecodedLine : Prop :=
  ∀ (s : State) (l : HostLine) (rest : List HostEvent), s.pending = .line l :: rest →
    (∀ i, decode l = .ok i → step s = exec i { s with pending := rest }) ∧
    (decode l = .error .notAScriptWord → step s = .refused .notAScriptWord) ∧
    (decode l = .error .notOfItsClass → step s = .refused .notOfItsClass)

/-- The model's stream of events (logs 1, 10): with nothing pending nothing changes; the store's other user writes one
byte of the store and nothing else. -/
def Obligations.OtherEventsDoOnlyWhatTheySay : Prop :=
  (∀ s : State, s.pending = [] → step s = .next s) ∧
  (∀ (s : State) (addr : BitVec 16) (v : Byte) (rest : List HostEvent), Inv s →
    s.pending = .storeWrite addr v :: rest →
      ∃ t, step s = .next t ∧ t = { s with nv := t.nv, pending := rest } ∧
        ∀ a, nvRead t a = if a = addr.toNat then v else nvRead s a)

/-! ## Encodings -/

/-- A few words of the spec, read: opcodes of R101, the reserved values R102 names, script words of R104 (`WR POS, 3`,
`RD Q`, the command `FSM.ENC` as a write), and frame bytes of R112 to R118. -/
def Obligations.SpecWordsDecode : Prop :=
  decodeTableWord 8 0x00 = some .nop ∧
  decodeTableWord 8 0x11 = some .crc7Upd ∧
  decodeTableWord 8 0x31 = some .fsmDec ∧
  decodeTableWord 8 0x54 = some .stZap ∧
  decodeTableWord 8 0x32 = some (.reserved 0x32) ∧
  decodeTableWord 32 0x80040003 = some (.scriptWr 0x04 3) ∧
  decodeTableWord 32 0x000E0000 = some (.scriptRd 0x0E) ∧
  decodeTableWord 32 0x80000030 = some (.scriptWr 0x00 0x30) ∧
  decodeTableWord 32 0x40000000 = none ∧
  decode (.frameByte .fullHeader 0 0x76) = .ok (.wireFullHeader 0 true true false) ∧
  decode (.frameByte .flags 5 0x6B) = .ok (.wireFlags 5 true 3) ∧
  decode (.frameByte .flags 5 0x64) = .error .notOfItsClass

/-- R102: the 242 reserved opcodes are exactly the values that decode to no command of R101. -/
def Obligations.ReservedOpcodesAreTheRest : Prop :=
  ∀ op : Byte, (decodeOpcode op = .reserved op ↔ isReservedOpcode op = true) ∧
    encodeOpcode (decodeOpcode op) = op

/-- DECODE AND ENCODE AGREE: every well-formed instruction is what its encoding decodes to. -/
def Obligations.DecodeOfEncodeIsTheInstruction : Prop :=
  ∀ i : Instr, i.wf = true → decode (encode i) = .ok i

/-- Each line has one meaning and each instruction one line: what decodes to `i` is the encoding of `i`; and a line that
is no frame byte decodes to a well-formed instruction only. -/
def Obligations.EncodeOfDecodeIsTheLine : Prop :=
  ∀ (l : HostLine) (i : Instr), decode l = .ok i →
    encode i = l ∧ ((∀ cls off b, l ≠ .frameByte cls off b) → i.wf = true)

/-! ## The bus -/

/-- R72, R84: a host write to a writable register other than `CMD` stores the low bits of the data, as many as the register
is wide, and changes nothing else. -/
def Obligations.RegisterWriteStoresLowBits : Prop :=
  ∀ (r : Reg) (v : BusWord) (s : State), r ≠ .cmd → r ≠ .status → r ≠ .q →
    ∃ t, exec (.scriptWr (regAddress r) v) s = .next t ∧
      regValue r t = v.toNat % 2 ^ regWidth r ∧
      (∀ r', r' ≠ r → regValue r' t = regValue r' s) ∧
      SameBuf s t ∧ SameNv s t ∧ SameOutside s t ∧ NoDraw s t

/-- R71, R32, R48: a write to a reserved address, to `STATUS` or to `Q` is ignored. -/
def Obligations.IgnoredWritesChangeNothing : Prop :=
  ∀ (addr : Byte) (v : BusWord) (s : State),
    addr = 0x01 ∨ addr = 0x0E ∨ (0x0F ≤ addr.toNat ∧ addr.toNat ≤ 0x3F) ∨ 0x80 ≤ addr.toNat →
      exec (.scriptWr addr v) s = .next s

/-- R49, R71, R72: a write to 0x40 to 0x7F stores bits 7:0 in that buffer byte and changes nothing else. -/
def Obligations.BufferWriteStoresOneByte : Prop :=
  ∀ (addr : Byte) (v : BusWord) (s : State), 0x40 ≤ addr.toNat → addr.toNat ≤ 0x7F →
    ∃ t, exec (.scriptWr addr v) s = .next t ∧ t = { s with buf := t.buf } ∧
      ∀ off, bufRead t off = if off = addr.toNat - 0x40 then v.setWidth 8 else bufRead s off

/-- R71, R72, R84: a host read returns the register zero-extended, the buffer byte, or 0 at a reserved address; the block is
not changed (what the bus returned is the model's own field, log 9). -/
def Obligations.ReadsReturnAndChangeNothing : Prop :=
  ∀ (addr : Byte) (s : State),
    ∃ x : BusWord, exec (.scriptRd addr) s = .next { s with busData := x } ∧
      (∀ r, addr = regAddress r → x.toNat = regValue r s) ∧
      (0x40 ≤ addr.toNat ∧ addr.toNat ≤ 0x7F → x.toNat = (bufRead s (addr.toNat - 0x40)).toNat) ∧
      ((0x0F ≤ addr.toNat ∧ addr.toNat ≤ 0x3F) ∨ 0x80 ≤ addr.toNat → x = 0)

/-- R31, R142, R103: a host write to `CMD` runs the command whose opcode is the low byte of the data, and `CMD` holds that
byte afterwards. -/
def Obligations.CmdWriteRunsTheCommand : Prop :=
  ∀ (v : BusWord) (s : State),
    exec (.scriptWr 0x00 v) s = exec (decodeOpcode (v.setWidth 8)).instr s ∧
    ∃ t, exec (.scriptWr 0x00 v) s = .next t ∧ t.cmd = v.setWidth 8

/-- The model's reading of the wire rows (log 2): a frame byte, as an instruction, is that byte loaded into the buffer by
the host (R49, R105); its value is the picture of R110, and nothing else changes. -/
def Obligations.FrameByteLoadsIntoTheBuffer : Prop :=
  ∀ (x : WireByte) (off : BitVec 6) (s : State),
    ∃ t, exec (x.instr off) s = .next t ∧ t = { s with buf := t.buf } ∧
      (bufRead t off.toNat).toNat = wireValue x ∧
      bufRead t off.toNat &&& wireMask (wireClassOf x) = wireMatch (wireClassOf x) ∧
      ∀ a, a ≠ off.toNat → bufRead t a = bufRead s a

/-- R105: the pseudo-instructions, run line by line with nothing else pending, do what they say. -/
def Obligations.PseudoInstructionsDoWhatTheySay : Prop :=
  (∀ (seed : Byte) (m : List Byte) (s : State), ∃ t : State,
    Sys2Proof.core.run (2 + 2 * m.length) { s with pending := crc7Msg seed m } = .next t ∧
      t.crc = crc7 (seed.setWidth 7) m ∧ t.pending = [] ∧ SameBuf s t ∧ SameNv s t) ∧
  (∀ (flags id temp ambl : BusWord) (s : State),
    Sys2Proof.core.run 4 { s with pending := ldf flags id temp ambl } =
      .next { s with
        fflags := flags.setWidth 6, fid := id, ftemp := temp, fambl := ambl.setWidth 8, pending := [] }) ∧
  (∀ (pos lim : BusWord) (s : State),
    Sys2Proof.core.run 2 { s with pending := win pos lim } =
      .next { s with pos := pos.setWidth 8, lim := lim.setWidth 8, pending := [] }) ∧
  (∀ (off : Nat) (bytes : List Byte) (s : State), off + bytes.length ≤ 64 → ∃ t : State,
    Sys2Proof.core.run bytes.length { s with pending := ldb off bytes } = .next t ∧
      t = { s with buf := t.buf, pending := [] } ∧ bufBytes t off bytes.length = bytes ∧
      ∀ a, a < off ∨ off + bytes.length ≤ a → bufRead t a = bufRead s a)

/-! ## Every command -/

/-- R278, R277: nothing stops the block: every instruction answers a next state in every state. -/
def Obligations.EveryInstructionAnswersANextState : Prop :=
  ∀ (i : Instr) (s : State), ∃ t, exec i s = .next t

/-- R32, R33: every command leaves `STATUS` with `OK` set exactly when `ERR` is 0, bits 3:2 clear, and `FIN` set only by a
successful `ST.ZAP`; no host access other than a write to `CMD` changes it. -/
def Obligations.OnlyCommandsWriteStatus : Prop :=
  (∀ (o : Opcode) (s t : State), exec o.instr s = .next t →
    (t.ok = true ↔ t.err = 0) ∧ t.status.getLsbD 2 = false ∧ t.status.getLsbD 3 = false ∧
      (t.fin = true → o = .stZap ∧ t.ok = true)) ∧
  (∀ (addr : Byte) (v : BusWord) (s t : State), addr ≠ 0 → exec (.scriptWr addr v) s = .next t → t.status = s.status) ∧
  (∀ (addr : Byte) (s t : State), exec (.scriptRd addr) s = .next t → t.status = s.status) ∧
  (∀ (x : WireByte) (off : BitVec 6) (s t : State), exec (x.instr off) s = .next t → t.status = s.status)

/-- R270: which failure codes each command can raise; codes 4 to 14 are never produced. -/
def Obligations.FailureCodesByCommand : Prop :=
  ∀ (o : Opcode) (s t : State), exec o.instr s = .next t → t.ok = false →
    (t.err = 1 ∧ o ∈ [.mtpEnc, .mtpDec, .fsmEnc, .fsmDec, .stCommit, .stGet]) ∨
    (t.err = 2 ∧ o ∈ [.mtpDec, .fsmDec]) ∨
    (t.err = 3 ∧ o ∈ [.mtpEnc, .fsmEnc]) ∨
    (t.err = 15 ∧ ∃ op, o = .reserved op)

/-- R276: a failed command changes `CMD`, `STATUS`, the descriptor after a failed decode (all zero), `Q` after a failed
`ST.GET`, and nothing else. -/
def Obligations.FailedCommandChangesOnlyWhatR276Lists : Prop :=
  ∀ (o : Opcode) (s t : State), exec o.instr s = .next t → t.ok = false →
    t.fin = false ∧
    t = { s with
      cmd := encodeOpcode o
      status := t.status
      fflags := if o = .mtpDec ∨ o = .fsmDec then 0 else s.fflags
      fid := if o = .mtpDec ∨ o = .fsmDec then 0 else s.fid
      ftemp := if o = .mtpDec ∨ o = .fsmDec then 0 else s.ftemp
      fambl := if o = .mtpDec ∨ o = .fsmDec then 0 else s.fambl
      q := if o = .stGet then 0x00FF else s.q }

/-- The "written by commands" column of R30's register table, with R35, R48, R49, R50 and R52: what each command leaves
alone. `CMD` and `STATUS` are every command's. -/
def Obligations.CommandsWriteOnlyTheirOwnRegisters : Prop :=
  ∀ (o : Opcode) (s t : State), exec o.instr s = .next t →
    t.cmd = encodeOpcode o ∧ SameHostRegs s t ∧ SameOutside s t ∧
    (o ∉ [.crc7Seed, .crc7Upd] → t.crc = s.crc) ∧
    (isFrameCommand o = false → t.pos = s.pos) ∧
    (o ∉ [.mtpDec, .fsmDec] →
      t.fflags = s.fflags ∧ t.fid = s.fid ∧ t.ftemp = s.ftemp ∧ t.fambl = s.fambl) ∧
    (o ∉ [.tcCmp, .tcExp, .stSmooth, .stWarmsh, .stGet, .stZap] → t.q = s.q) ∧
    (o ∉ [.mtpEnc, .fsmEnc] → SameBuf s t) ∧
    (o ∉ [.stCommit, .stZap] → SameNv s t) ∧
    (o ∉ [.stSmooth, .stCommit] → NoDraw s t)

/-- R85, as far as R190 bears it out: running again changes nothing for the six idempotent commands; after a finished
`ST.ZAP` a second one changes at most `Q` (log 21). -/
def Obligations.IdempotentCommandsChangeNothingTwice : Prop :=
  (∀ (o : Opcode) (s t : State), o ∈ [Opcode.nop, .crc7Seed, .tcCmp, .tcExp, .stWarmsh, .stGet] →
    exec o.instr s = .next t → exec o.instr t = .next t) ∧
  (∀ s t : State, Inv s → exec .stZap s = .next t → t.fin = true → exec .stZap t = .next { t with q := 0 })

/-- What every step keeps: both memories in canonical form, the parameters in their ranges, a legal `STATUS`. -/
def Obligations.ResetStateIsGood : Prop := Inv State.reset

/-- Every step of a good state, whatever the outside world does next, gives a good state. -/
def Obligations.EveryStepKeepsTheStateGood : Prop :=
  ∀ s t : State, Inv s → step s = .next t → Inv t

/-! ## Control -/

/-- R140: `NOP` leaves `STATUS` = 0x01 and changes nothing but `CMD` and `STATUS`. -/
def Obligations.NopClearsAFailureAndNothingElse : Prop :=
  ∀ s : State, exec .nop s = .next { s with cmd := 0x00, status := 0x01 }

/-- R141: a reserved opcode always fails with `E_BADOP`; `CMD` holds it, nothing else changes. -/
def Obligations.ReservedOpcodeFailsWithBadOp : Prop :=
  ∀ (op : Byte) (s : State), isReservedOpcode op = true →
    exec (.reserved op) s = .next { s with cmd := op, status := 0xF0 }

/-! ## The CRC -/

/-- R203: `CRC7.SEED` loads `B[6:0]` into `CRC`. -/
def Obligations.CrcSeedLoadsLowSevenBits : Prop :=
  ∀ s : State, exec .crc7Seed s =
    .next { s with cmd := 0x10, crc := BitVec.ofNat 7 (s.b.toNat % 128), status := 0x01 }

/-- R204, R201: `CRC7.UPD` folds `B` into `CRC`, bit 7 first: each bit shifts the register left, and the polynomial is added
when the bit that leaves differs from the data bit. The values are those the rule lists. -/
def Obligations.CrcUpdateFoldsOneByte : Prop :=
  (∀ s : State, exec .crc7Upd s = .next { s with cmd := 0x11, crc := crc7Upd s.crc s.b, status := 0x01 }) ∧
  (∀ (c : Crc7) (d : Byte), (crc7Upd c d).toNat =
    [7, 6, 5, 4, 3, 2, 1, 0].foldl (fun (n i : Nat) =>
      if n / 64 = d.toNat / 2 ^ i % 2 then n * 2 % 128 else (n * 2 % 128) ^^^ 0x37) c.toNat) ∧
  crc7Upd 0 0x00 = 0 ∧ crc7Upd 0 0x01 = 0x37 ∧ crc7Upd 0 0x02 = 0x6E ∧ crc7Upd 0 0x40 = 0x0D ∧
  crc7Upd 0 0x80 = 0x1A ∧ crc7Upd 0 0xFF = 0x6C ∧ crc7Upd 0x7F 0x00 = 0x5B ∧ crc7Upd 0x7F 0xFF = 0x37 ∧
  crc7Upd 0x40 0x00 = 0x1A ∧ crc7Upd 0x3F 0x80 = 0x5B ∧ crc7Upd 0 0x41 = 0x3A ∧ crc7Upd 0x3A 0x27 = 0x21

open Polynomial in
/-- R202: the CRC is the remainder of the seeded message polynomial by `x^7 + x^5 + x^4 + x^2 + x + 1` over GF(2). -/
def Obligations.CrcIsThePolynomialRemainder : Prop :=
  ∀ (seed : Crc7) (m : List Byte), ∃ k : (ZMod 2)[X],
    (∑ i ∈ Finset.range 7, if seed.getLsbD i then X ^ i else 0) * X ^ (8 * m.length)
      + (m.foldl (fun acc d => acc * X ^ 8 + ∑ i ∈ Finset.range 8, if d.getLsbD i then X ^ i else 0) 0) * X ^ 7
    = k * (X ^ 7 + X ^ 5 + X ^ 4 + X ^ 2 + X + 1)
      + ∑ i ∈ Finset.range 7, if (crc7 seed m).getLsbD i then X ^ i else 0

/-- R205 (b), (d): the byte step is linear over GF(2), and for a fixed byte it is one to one. -/
def Obligations.CrcUpdateIsLinearAndOneToOne : Prop :=
  (∀ (c1 c2 : Crc7) (d1 d2 : Byte), crc7Upd (c1 ^^^ c2) (d1 ^^^ d2) = crc7Upd c1 d1 ^^^ crc7Upd c2 d2) ∧
  (∀ (c1 c2 : Crc7) (d : Byte), crc7Upd c1 d = crc7Upd c2 d → c1 = c2)

/-- R205 (e): a change of exactly one bit of a message always changes its CRC. -/
def Obligations.CrcDetectsEverySingleBit : Prop :=
  ∀ (seed : Crc7) (m : List Byte) (j k : Nat) (hj : j < m.length), k < 8 →
    crc7 seed (m.set j (m[j] ^^^ BitVec.twoPow 8 k)) ≠ crc7 seed m

/-! ## The minimal trailer -/

/-- R221: `MTP.ENC` writes the three bytes of the trailer at `POS` and moves `POS` by 3; with a malformed window it fails with
`E_INVAL`, with fewer than 3 bytes of room with `E_NOSPACE`, and then changes nothing but `CMD` and `STATUS`. -/
def Obligations.TrailerEncodeWritesThreeBytes : Prop :=
  ∀ s : State,
    (goodWindow s → 3 ≤ s.lim.toNat - s.pos.toNat →
      ∃ t, exec .mtpEnc s = .next t ∧
        t = { s with cmd := 0x20, buf := t.buf, pos := BitVec.ofNat 8 (s.pos.toNat + 3), status := 0x01 } ∧
        bufBytes t s.pos.toNat 3 = trailerOf s.params s.ftemp.toInt (s.fflags.getLsbD 3) ∧
        ∀ off, off < s.pos.toNat ∨ s.pos.toNat + 3 ≤ off → bufRead t off = bufRead s off) ∧
    (¬ goodWindow s → exec .mtpEnc s = .next { s with cmd := 0x20, status := 0x10 }) ∧
    (goodWindow s → s.lim.toNat - s.pos.toNat < 3 →
      exec .mtpEnc s = .next { s with cmd := 0x20, status := 0x30 })

/-- R225: `MTP.DEC` accepts three bytes with the fixed bits of R114 and their CRC, and fills the descriptor; every other
window empties the descriptor and leaves `POS`. -/
def Obligations.TrailerDecodeChecksAndExtracts : Prop :=
  ∀ s : State,
    let y0 := bufRead s s.pos.toNat
    let y1 := bufRead s (s.pos.toNat + 1)
    let y2 := bufRead s (s.pos.toNat + 2)
    let good := 3 ≤ s.lim.toNat - s.pos.toNat ∧ y0 &&& 0xE0 = 0x40 ∧ y1.getLsbD 7 = false ∧
      y2.toNat = (crc7 0 [y0, y1]).toNat
    (goodWindow s → good →
      exec .mtpDec s = .next { s with
        cmd := 0x21
        fflags := BitVec.ofNat 6 (0x02 + 8 * (y0.getLsbD 4).toNat)
        fid := 0
        ftemp := BitVec.ofInt 16 ((y1.toNat * 16 + y0.toNat % 16 : Nat) - (s.params.tempBias : Int))
        fambl := 0
        pos := BitVec.ofNat 8 (s.pos.toNat + 3)
        status := 0x01 }) ∧
    (goodWindow s → ¬ good →
      exec .mtpDec s = .next { s with cmd := 0x21, fflags := 0, fid := 0, ftemp := 0, fambl := 0, status := 0x20 }) ∧
    (¬ goodWindow s →
      exec .mtpDec s = .next { s with cmd := 0x21, fflags := 0, fid := 0, ftemp := 0, fambl := 0, status := 0x10 })

/-- R219: unpacking a packed temperature gives it back clamped, and packing an unpacked pair gives the two bytes back. -/
def Obligations.PackAndUnpackAreInverse : Prop :=
  (∀ (p : Params) (t : Int) (pl : Bool),
    tpUnpack p (tpPack p t pl).1 (tpPack p t pl).2 = some (clampTemp p t, pl)) ∧
  (∀ (p : Params) (y0 y1 : Byte) (t : Int) (pl : Bool), tpUnpack p y0 y1 = some (t, pl) → tpPack p t pl = (y0, y1)) ∧
  (∀ (p : Params) (y0 y1 : Byte), (tpUnpack p y0 y1).isSome = true ↔ y0 &&& 0xE0 = 0x40 ∧ y1.getLsbD 7 = false)

/-- R227: `MTP.ENC`, `WR POS, p0`, `MTP.DEC` gives back the temperature, clamped, the power flag and the same end offset. -/
def Obligations.TrailerRoundTrip : Prop :=
  ∀ s t : State, exec .mtpEnc s = .next t → t.ok = true →
    ∃ u v, exec (.scriptWr 0x04 (s.pos.setWidth 16)) t = .next u ∧ exec .mtpDec u = .next v ∧
      v.ok = true ∧ v.ftemp = BitVec.ofInt 16 (clampTemp s.params s.ftemp.toInt) ∧
      v.fflags = BitVec.ofNat 6 (0x02 + 8 * (s.fflags.getLsbD 3).toNat) ∧ v.fid = 0 ∧ v.fambl = 0 ∧ v.pos = t.pos

/-- R227: a flip of any one bit of the three bytes `MTP.ENC` wrote makes `MTP.DEC` fail with `E_WIRE`. -/
def Obligations.TrailerDetectsEverySingleBit : Prop :=
  ∀ (s t : State) (j k : Nat), exec .mtpEnc s = .next t → t.ok = true → j < 3 → k < 8 →
    ∃ u, exec .mtpDec
        { bufWrite (s.pos.toNat + j) (bufRead t (s.pos.toNat + j) ^^^ BitVec.twoPow 8 k) t with pos := s.pos } =
        .next u ∧ u.status = 0x20

/-! ## The full-core frame -/

/-- R238: `FSM.ENC` builds the frame of the descriptor at `POS`, with its CRC byte and terminator, and leaves `POS` at the
terminator; `E_INVAL` for a secure channel, a malformed window or refused fields, then `E_NOSPACE` for too little room, and
then nothing but `CMD` and `STATUS` changes. -/
def Obligations.FrameEncodeBuildsTheFrame : Prop :=
  ∀ s : State,
    let f := frameOf s.params (s.cfg.getLsbD 0) s.desc
    let bad := s.cfg.getLsbD 1 = true ∨ ¬ goodWindow s ∨ refusedFields s.desc
    (¬ bad → f.length + 1 ≤ s.lim.toNat - s.pos.toNat →
      ∃ t, exec .fsmEnc s = .next t ∧
        t = { s with cmd := 0x30, buf := t.buf, pos := BitVec.ofNat 8 (s.pos.toNat + f.length), status := 0x01 } ∧
        bufBytes t s.pos.toNat (f.length + 1) = f ++ [0xFF] ∧
        ∀ off, off < s.pos.toNat ∨ s.pos.toNat + f.length + 1 ≤ off → bufRead t off = bufRead s off) ∧
    (bad → exec .fsmEnc s = .next { s with cmd := 0x30, status := 0x10 }) ∧
    (¬ bad → s.lim.toNat - s.pos.toNat < f.length + 1 →
      exec .fsmEnc s = .next { s with cmd := 0x30, status := 0x30 }) ∧
    f.length = 3 + 2 * (s.fflags.getLsbD 0).toNat + 2 * (s.fflags.getLsbD 1).toNat + (s.fflags.getLsbD 2).toNat

/-- R250, R252: `FSM.DEC` accepts exactly the byte strings that are the frame of a descriptor in normal form, and gives that
descriptor; every other window empties the descriptor and leaves `POS`. The terminator is not looked at. `canonical`
is R252's normal form. -/
def Obligations.FrameDecodeAcceptsExactlyTheFrames : Prop :=
  ∀ s : State, s.params.wf →
    let fits := fun (d : Desc) => d.canonical s.params ∧
      (frameOf s.params true d).length ≤ s.lim.toNat - s.pos.toNat ∧
      bufBytes s s.pos.toNat (frameOf s.params true d).length = frameOf s.params true d
    (goodWindow s → ∀ d, fits d →
      exec .fsmDec s = .next { s with
        cmd := 0x31, fflags := d.fflags, fid := d.fid, ftemp := d.ftemp, fambl := d.fambl
        pos := BitVec.ofNat 8 (s.pos.toNat + (frameOf s.params true d).length), status := 0x01 }) ∧
    (goodWindow s → (∀ d, ¬ fits d) →
      exec .fsmDec s = .next { s with cmd := 0x31, fflags := 0, fid := 0, ftemp := 0, fambl := 0, status := 0x20 }) ∧
    (¬ goodWindow s →
      exec .fsmDec s = .next { s with cmd := 0x31, fflags := 0, fid := 0, ftemp := 0, fambl := 0, status := 0x10 })

/-- R252 (a): decoding what `FSM.ENC` wrote, with any `LIM` from its end offset up, reproduces the descriptor in normal form
and the same end offset. -/
def Obligations.FrameRoundTrip : Prop :=
  ∀ (s t : State) (lim : Byte), s.params.wf → exec .fsmEnc s = .next t → t.ok = true →
    t.pos.toNat ≤ lim.toNat → lim.toNat ≤ 64 →
      ∃ u, exec .fsmDec { t with pos := s.pos, lim := lim } = .next u ∧ u.ok = true ∧
        u.desc = normDesc s.params (s.cfg.getLsbD 0) s.desc ∧ u.pos = t.pos

/-- R252 (b): encoding what `FSM.DEC` accepted, with `CFG` = 0x01 and room, writes the very bytes that were there, and then
the terminator. -/
def Obligations.DecodedFrameEncodesToItself : Prop :=
  ∀ (s t : State) (lim : Byte), s.params.wf → exec .fsmDec s = .next t → t.ok = true →
    t.pos.toNat + 1 ≤ lim.toNat → lim.toNat ≤ 64 →
      ∃ u, exec .fsmEnc { t with pos := s.pos, lim := lim, cfg := 1 } = .next u ∧ u.ok = true ∧ u.pos = t.pos ∧
        ∀ off, bufRead u off = if off = t.pos.toNat then 0xFF else bufRead s off

/-- R121: the encoders write `0xFF` nowhere but in the terminator of a full-core frame. -/
def Obligations.OnlyTheTerminatorIsFF : Prop :=
  (∀ s t : State, exec .fsmEnc s = .next t → t.ok = true →
    (∀ off, s.pos.toNat ≤ off → off < t.pos.toNat → bufRead t off ≠ 0xFF) ∧ bufRead t t.pos.toNat = 0xFF) ∧
  (∀ s t : State, exec .mtpEnc s = .next t → t.ok = true →
    ∀ off, s.pos.toNat ≤ off → off < t.pos.toNat → bufRead t off ≠ 0xFF)

/-- R253 (b): of two windows that differ in one bit inside the frame, `FSM.DEC` never accepts both with the same length. -/
def Obligations.FlippedFrameNeverKeepsItsLength : Prop :=
  ∀ (s t t' : State) (off k : Nat), exec .fsmDec s = .next t → t.ok = true →
    s.pos.toNat ≤ off → off < t.pos.toNat → k < 8 →
    exec .fsmDec (bufWrite off (bufRead s off ^^^ BitVec.twoPow 8 k) s) = .next t' → t'.ok = true →
      t'.pos ≠ t.pos

/-- R253: a frame `FSM.ENC` wrote, its terminator apart, with one bit flipped: whatever the window from its start, `FSM.DEC`
either fails with `E_WIRE` or accepts a shorter frame after which `BUF[POS]` is not `0xFF`. -/
def Obligations.FlippedFrameFailsOrIsShorter : Prop :=
  ∀ (s t : State) (lim : Byte) (off k : Nat), exec .fsmEnc s = .next t → t.ok = true →
    s.pos.toNat ≤ off → off < t.pos.toNat → k < 8 → s.pos.toNat ≤ lim.toNat → lim.toNat ≤ 64 →
      ∃ u, exec .fsmDec { bufWrite off (bufRead t off ^^^ BitVec.twoPow 8 k) t with pos := s.pos, lim := lim } =
          .next u ∧
        (u.status = 0x20 ∨
          u.ok = true ∧ u.pos.toNat < t.pos.toNat ∧ bufRead u u.pos.toNat ≠ 0xFF)

/-- R38: a frame command that succeeds moves `POS` forward and never past `LIM` or the buffer's end; one that fails leaves
it. -/
def Obligations.PosMovesOnlyOnSuccessAndNeverWraps : Prop :=
  ∀ (o : Opcode) (s t : State), isFrameCommand o = true → exec o.instr s = .next t →
    (t.ok = false → t.pos = s.pos) ∧
    (t.ok = true → s.pos.toNat + 3 ≤ t.pos.toNat ∧ t.pos.toNat ≤ s.lim.toNat ∧ s.lim.toNat ≤ 64)

/-- R49, R37: no command touches a buffer byte outside `[POS, LIM)`: none is written, and what a decode gives does not
depend on one. -/
def Obligations.FrameCommandsStayInTheWindow : Prop :=
  (∀ (o : Opcode) (s t : State), exec o.instr s = .next t →
    ∀ off, off < s.pos.toNat ∨ s.lim.toNat ≤ off → bufRead t off = bufRead s off) ∧
  (∀ (o : Opcode) (s t : State) (buf' : List Host.Cell), o = .mtpDec ∨ o = .fsmDec →
    (∀ off, s.pos.toNat ≤ off → off < s.lim.toNat → bufRead { s with buf := buf' } off = bufRead s off) →
    exec o.instr s = .next t → exec o.instr { s with buf := buf' } = .next { t with buf := buf' })

/-! ## The compander -/

/-- R156, R152: `TC.CMP` compresses `sext_16(A)` by the bands of R152 into `Q`. -/
def Obligations.CompressCommandFollowsTheBands : Prop :=
  ∀ s : State, s.params.wf →
    let t := s.a.toInt
    let lo : Int := 16 * s.params.cmpLowC
    let hi : Int := 16 * s.params.cmpHighC
    ∃ q : Nat, exec .tcCmp s = .next { s with cmd := 0x40, q := BitVec.ofNat 16 q, status := 0x01 } ∧ q ≤ 254 ∧
      (q : Int) =
        if t ≤ 0 then 0
        else if t < lo then t / 8
        else if t < hi then lo / 8 + (t - lo) / 2
        else if t < 1600 then lo / 8 + (hi - lo) / 2 + (t - hi) / 8
        else lo / 8 + (hi - lo) / 2 + (1600 - hi) / 8

/-- R160, R158: `TC.EXP` expands the code in `B` into `Q`: `UNSET_INT` for the sentinel, the bands of R158 for the rest. -/
def Obligations.ExpandCommandFollowsTheBands : Prop :=
  ∀ s : State, s.params.wf →
    let c := s.b.toNat
    let lo := 16 * s.params.cmpLowC
    let hi := 16 * s.params.cmpHighC
    let loAfter := lo / 8
    let hiAfter := loAfter + (hi - lo) / 2
    let top := hiAfter + (1600 - hi) / 8
    ∃ q : BusWord, exec .tcExp s = .next { s with cmd := 0x41, q := q, status := 0x01 } ∧
      (c = 0xFF → q = s.params.unsetInt) ∧
      (c ≠ 0xFF → q.toNat =
        if c < loAfter then 8 * c
        else if c < hiAfter then lo + 2 * (c - loAfter)
        else if c ≤ top then hi + 8 * (c - hiAfter)
        else 1600)

/-- R153: `compress` is monotone, clamps to 0 C and 100 C, has the ceiling `200 + 6*(CMP_HIGH_C - CMP_LOW_C)`, at most 254 and
so never the sentinel, and reaches every code up to it. -/
def Obligations.CompressIsMonotoneClampedAndOnto : Prop :=
  ∀ p : Params, p.wf →
    (∀ t1 t2 : Int, t1 ≤ t2 → compress p t1 ≤ compress p t2) ∧
    (∀ t : Int, t < 0 → compress p t = compress p 0) ∧
    (∀ t : Int, 1600 < t → compress p t = compress p 1600) ∧
    compress p 1600 = 200 + 6 * (p.cmpHighC - p.cmpLowC) ∧ compress p 1600 ≤ 254 ∧
    (∀ c, c ≤ compress p 1600 → ∃ t : Int, compress p t = c)

/-- R159: `expand` is the exact inverse of `compress` on its codes, giving the least temperature of the code; the round trip
drops only the bits below the band's step; whole degrees survive; only the sentinel gives `UNSET_INT`. -/
def Obligations.ExpandInvertsCompress : Prop :=
  ∀ p : Params, p.wf →
    (∀ c : Nat, c ≤ compress p 1600 →
      compress p (expand p (BitVec.ofNat 8 c)).toInt = c ∧
      ∀ t : Int, 0 ≤ t → compress p t = c → (expand p (BitVec.ofNat 8 c)).toInt ≤ t) ∧
    (∀ t : Int, (expand p (BitVec.ofNat 8 (compress p t))).toInt =
      let u := min (max t 0) 1600
      if u < 16 * p.cmpLowC then u / 8 * 8 else if u < 16 * p.cmpHighC then u / 2 * 2 else u / 8 * 8) ∧
    (∀ x : Nat, x ≤ 100 → (expand p (BitVec.ofNat 8 (compress p (16 * x)))).toInt = 16 * x) ∧
    (∀ c : Byte, expand p c = p.unsetInt ↔ c = 0xFF) ∧
    (∀ c : Byte, c ≠ 0xFF → 0 ≤ (expand p c).toInt ∧ (expand p c).toInt ≤ 1600)

/-! ## The history -/

/-- R174, R172: `ST.SMOOTH` takes exactly one sample of `RND`, whatever it is, and puts
`(C * (2^k - 1) + B + r) >> k` into `Q`, `r` the low `k` bits of the sample. Which byte the sample is (`sampleAt`) and what
`rndIn` and `rndTaken` hold afterwards is the model's form of the port (log 5, DESIGN CHOICE). -/
def Obligations.SmoothCommandFoldsInOneSample : Prop :=
  ∀ s : State, s.params.wf →
    let k := s.params.smoothShift
    let r := (sampleAt s 0).toNat % 2 ^ k
    ∃ q : Nat, exec .stSmooth s = .next { s with
        cmd := 0x50, q := BitVec.ofNat 16 q, status := 0x01
        rndIn := s.rndIn.drop 1, rndTaken := s.rndTaken + 1 } ∧
      q = (s.c.toNat * 2 ^ k - s.c.toNat + s.b.toNat + r) / 2 ^ k ∧
      min s.c.toNat s.b.toNat ≤ q ∧ q ≤ max s.c.toNat s.b.toNat

/-- R173: `smooth` stays between old and new, keeps a value smoothed with itself, moves by at most the difference over
`2^k` rounded up, and sums over all samples to the exact mean. -/
def Obligations.SmoothIsBoundedAndFair : Prop :=
  ∀ (p : Params) (old new : Nat), p.wf → old < 256 → new < 256 →
    let n := 2 ^ p.smoothShift
    (∀ r, r < n → min old new ≤ smooth p old new r ∧ smooth p old new r ≤ max old new ∧
      smooth p old new r ≤ old + ((new - old) + (n - 1)) / n ∧
      old ≤ smooth p old new r + ((old - new) + (n - 1)) / n) ∧
    (∀ r, r < n → smooth p old old r = old) ∧
    ∑ r ∈ Finset.range n, smooth p old new r = old * (n - 1) + new

/-- R176, R175: `ST.WARMSH` shifts the bitmap in `B` down by one day and puts the sign of the vote in `C` at bit 6; the
all-ones sentinel starts the whole bitmap from the vote. -/
def Obligations.WarmShiftInsertsTheVote : Prop :=
  ∀ s : State,
    let w : Nat := if 0 < s.c.toInt then 1 else 0
    exec .stWarmsh s = .next { s with
      cmd := 0x51
      q := BitVec.ofNat 16 (if s.b = 0xFF then 127 * w else s.b.toNat / 2 % 64 + 64 * w)
      status := 0x01 }

/-- R180: `ST.COMMIT` writes the five bytes of the hour `H`, the last slots from the operands, the smoothed slots started
or folded in with a fresh sample each, the bitmap shifted; no other store byte changes. An hour of 24 to 31 fails with
`E_INVAL` and changes nothing but `CMD` and `STATUS`. Which bytes the samples are (`sampleAt`) and what `rndIn` and `rndTaken`
hold afterwards is the model's form of the port (log 5, DESIGN CHOICE). -/
def Obligations.CommitWritesFiveBytesOfTheHour : Prop :=
  ∀ s : State, Inv s →
    let at' := fun set => s.params.statsBase + 24 * set + s.h.toNat
    let k := s.params.smoothShift
    let ct := compress s.params s.a.toInt
    let ca := min s.b.toNat 0xFE
    let w := decide (0 < s.c.toInt)
    let set1 := decide (nvRead s (at' 1) ≠ 0xFF)
    let set3 := decide (nvRead s (at' 3) ≠ 0xFF)
    let fold := fun (old new n : Nat) => (old * 2 ^ k - old + new + (sampleAt s n).toNat % 2 ^ k) / 2 ^ k
    (s.h.toNat < 24 →
      ∃ t, exec .stCommit s = .next t ∧
        t = { s with
          cmd := 0x52, nv := t.nv, status := 0x01
          rndIn := s.rndIn.drop (set1.toNat + set3.toNat)
          rndTaken := s.rndTaken + (set1.toNat + set3.toNat) } ∧
        (nvRead t (at' 0)).toNat = ct ∧
        (nvRead t (at' 1)).toNat = (if set1 then fold (nvRead s (at' 1)).toNat ct 0 else ct) ∧
        (nvRead t (at' 2)).toNat = ca ∧
        (nvRead t (at' 3)).toNat = (if set3 then fold (nvRead s (at' 3)).toNat ca set1.toNat else ca) ∧
        nvRead t (at' 4) = warmshift (nvRead s (at' 4)) w ∧
        ∀ a, (∀ set < 5, a ≠ at' set) → nvRead t a = nvRead s a) ∧
    (24 ≤ s.h.toNat → exec .stCommit s = .next { s with cmd := 0x52, status := 0x10 })

/-- R187: `ST.GET` puts the history byte of set `B` at hour `H` into `Q`; an hour of 24 or more or a set of 5 or more fails
with `E_INVAL` and leaves the sentinel in `Q`. -/
def Obligations.GetReadsOneHistoryByte : Prop :=
  ∀ s : State,
    (s.h.toNat < 24 ∧ s.b.toNat < 5 →
      exec .stGet s = .next { s with
        cmd := 0x53, status := 0x01
        q := (nvRead s (s.params.statsBase + 24 * s.b.toNat + s.h.toNat)).setWidth 16 }) ∧
    (24 ≤ s.h.toNat ∨ 5 ≤ s.b.toNat →
      exec .stGet s = .next { s with cmd := 0x53, q := 0x00FF, status := 0x10 })

/-- R190: `ST.ZAP` erases, in ascending address, as many set bytes of the region as the budget allows; `Q` counts them;
`FIN` says whether every byte of the region is unset at the end. -/
def Obligations.ZapErasesWithinTheBudget : Prop :=
  ∀ s : State, Inv s →
    let region := List.range' s.params.statsBase 120
    let used := region.filter fun a => nvRead s a ≠ 0xFF
    let n := min s.a.toNat used.length
    ∃ t, exec .stZap s = .next t ∧
      t = { s with
        cmd := 0x54, nv := t.nv, q := BitVec.ofNat 16 n
        status := if used.length ≤ s.a.toNat then 0x03 else 0x01 } ∧
      (∀ a, nvRead t a = if a ∈ used.take n then 0xFF else nvRead s a) ∧
      (t.fin = true ↔ ∀ a ∈ region, nvRead t a = 0xFF)

/-- R191: `ST.ZAP` with a budget of at least 1, repeated so often that the budgets add up to 120, ends with `FIN` set and
every history byte unset. -/
def Obligations.RepeatedZapUnsetsTheRegion : Prop :=
  ∀ (s : State) (n : Nat), Inv s → 120 ≤ n * s.a.toNat →
    ∃ t, repeatCmd .stZap n s = .next t ∧ t.status = 0x03 ∧
      ∀ set < 5, ∀ h < 24, nvRead t (slot s.params set h) = 0xFF

/-- R191, R316 (a): no command but `ST.ZAP` makes a store byte `0xFF`, and none writes outside the statistics region. -/
def Obligations.OnlyZapUnsetsAHistoryByte : Prop :=
  ∀ (o : Opcode) (s t : State) (a : Nat), Inv s → exec o.instr s = .next t →
    (o ≠ .stZap → nvRead t a = 0xFF → nvRead s a = 0xFF) ∧
    (a < s.params.statsBase ∨ s.params.statsBase + 120 ≤ a → nvRead t a = nvRead s a)

/-- R51, R125: a history that holds only compander codes and 7-bit bitmaps, or unset bytes, still does after any
instruction. -/
def Obligations.InstructionsKeepTheHistoryLegal : Prop :=
  ∀ (i : Instr) (s t : State), Inv s → HistoryLegal s → exec i s = .next t → HistoryLegal t
end

