-- ==== Sys2Proof/Laws/PerInstr.lean ====
section
/-! SUPPORT. Statements about every instruction as syntax, one lemma per constructor. -/

namespace Sys2Proof.Laws

open Sys2Proof

/-- The bits of a line's instruction word. -/
def lineBits : HostLine → Nat
  | .command _ => 8
  | .access _ => 32
  | .frameByte _ _ _ => 8

/-- The bits of an instruction's row in opcode_table.json: 32 for the script words (30_encoding.md R104), 8 for commands
and frame bytes (R100, R110). -/
def rowBits : Instr → Nat
  | .scriptWr _ _ | .scriptRd _ => 32
  | .nop | .crc7Seed | .crc7Upd | .mtpEnc | .mtpDec | .fsmEnc | .fsmDec | .tcCmp | .tcExp
  | .stSmooth | .stWarmsh | .stCommit | .stGet | .stZap | .reserved _
  | .wireFullHeader _ _ _ _ | .wireIdByte _ _ | .wireTpByte0 _ _ _ | .wireTpByte1 _ _ | .wireFlags _ _ _
  | .wireAmbientLight _ _ | .wireCrc _ _ | .wireTerminator _ => 8

/-- The encoding of an instruction has the width of its row. -/
def RowWidth.Statement (i : Instr) : Prop := lineBits (encode i) = rowBits i

namespace RowWidth

theorem nop : Statement .nop := rfl
theorem crc7Seed : Statement .crc7Seed := rfl
theorem crc7Upd : Statement .crc7Upd := rfl
theorem mtpEnc : Statement .mtpEnc := rfl
theorem mtpDec : Statement .mtpDec := rfl
theorem fsmEnc : Statement .fsmEnc := rfl
theorem fsmDec : Statement .fsmDec := rfl
theorem tcCmp : Statement .tcCmp := rfl
theorem tcExp : Statement .tcExp := rfl
theorem stSmooth : Statement .stSmooth := rfl
theorem stWarmsh : Statement .stWarmsh := rfl
theorem stCommit : Statement .stCommit := rfl
theorem stGet : Statement .stGet := rfl
theorem stZap : Statement .stZap := rfl
theorem reserved (op : Byte) : Statement (.reserved op) := rfl
theorem wireFullHeader (off : BitVec 6) (idp idh sec : Bool) : Statement (.wireFullHeader off idp idh sec) := rfl
theorem wireIdByte (off : BitVec 6) (id : BitVec 7) : Statement (.wireIdByte off id) := rfl
theorem wireTpByte0 (off : BitVec 6) (pl : Bool) (lo : BitVec 4) : Statement (.wireTpByte0 off pl lo) := rfl
theorem wireTpByte1 (off : BitVec 6) (hi : BitVec 7) : Statement (.wireTpByte1 off hi) := rfl
theorem wireFlags (off : BitVec 6) (alp : Bool) (occ : BitVec 2) : Statement (.wireFlags off alp occ) := rfl
theorem wireAmbientLight (off : BitVec 6) (level : Byte) : Statement (.wireAmbientLight off level) := rfl
theorem wireCrc (off : BitVec 6) (c : Crc7) : Statement (.wireCrc off c) := rfl
theorem wireTerminator (off : BitVec 6) : Statement (.wireTerminator off) := rfl
theorem scriptWr (addr : Byte) (data : BusWord) : Statement (.scriptWr addr data) := rfl
theorem scriptRd (addr : Byte) : Statement (.scriptRd addr) := rfl

end RowWidth

end Sys2Proof.Laws
end

