-- ==== Sys2Proof/Tests/Slice0.lean ====
section
/-! SUPPORT. Tests on single steps, with expected values from 95_test_vectors.md, and for every statement with
hypotheses a state and operands that meet them. -/

namespace Sys2Proof.Tests

open Sys2Proof Sys2Proof.Machine

/-! ## Well-formedness: one ill-formed term for each check -/

theorem test_wf_refuses_a_command_as_reserved : (Instr.reserved 0x30).wf = false := by decide
theorem test_wf_refuses_secure_header : (Instr.wireFullHeader 0 true true true).wf = false := by decide
theorem test_wf_refuses_high_id_without_id : (Instr.wireFullHeader 0 false true false).wf = false := by decide
theorem test_wf_refuses_light_zero : (Instr.wireAmbientLight 0 0x00).wf = false := by decide
theorem test_wf_refuses_light_ff : (Instr.wireAmbientLight 0 0xFF).wf = false := by decide

/-! ## Decoding: words written out from 30_encoding.md -/

/-- R101, every opcode. -/
theorem test_decode_opcodes :
    [0x00, 0x10, 0x11, 0x20, 0x21, 0x30, 0x31, 0x40, 0x41, 0x50, 0x51, 0x52, 0x53, 0x54].map (decodeTableWord 8) =
      [Instr.nop, .crc7Seed, .crc7Upd, .mtpEnc, .mtpDec, .fsmEnc, .fsmDec, .tcCmp, .tcExp,
        .stSmooth, .stWarmsh, .stCommit, .stGet, .stZap].map some := by decide

/-- R102, the ends of the reserved ranges. -/
theorem test_decode_reserved :
    [0x01, 0x0F, 0x12, 0x1F, 0x22, 0x2F, 0x32, 0x3F, 0x42, 0x4F, 0x55, 0x5F, 0x60, 0xFF].all (fun w =>
      decodeTableWord 8 w == some (.reserved (BitVec.ofNat 8 w))) = true := by decide

/-- R104: `WR FTEMP, -400` and `RD BUF[8]` of programs P5 and P1. -/
theorem test_decode_script :
    decodeTableWord 32 0x8008FE70 = some (.scriptWr 0x08 0xFE70) ∧
    decodeTableWord 32 0x00480000 = some (.scriptRd 0x48) ∧
    decodeTableWord 32 0x00480001 = none := by decide

/-- R112 to R118: the nine bytes of the frame of scenario S1, class by class. -/
theorem test_decode_frame_bytes :
    decode (.frameByte .fullHeader 0 0x76) = .ok (.wireFullHeader 0 true true false) ∧
    decode (.frameByte .idByte 1 0x03) = .ok (.wireIdByte 1 0x03) ∧
    decode (.frameByte .idByte 2 0x18) = .ok (.wireIdByte 2 0x18) ∧
    decode (.frameByte .tpByte0 3 0x41) = .ok (.wireTpByte0 3 false 1) ∧
    decode (.frameByte .tpByte1 4 0x27) = .ok (.wireTpByte1 4 0x27) ∧
    decode (.frameByte .flags 5 0x6B) = .ok (.wireFlags 5 true 3) ∧
    decode (.frameByte .ambientLight 6 0x2A) = .ok (.wireAmbientLight 6 0x2A) ∧
    decode (.frameByte .crc 7 0x44) = .ok (.wireCrc 7 0x44) ∧
    decode (.frameByte .terminator 8 0xFF) = .ok (.wireTerminator 8) := by decide

/-- R110: a byte without the fixed bits of its class. -/
theorem test_decode_refuses_other_classes :
    decode (.frameByte .fullHeader 0 0x78) = .error .notOfItsClass ∧
    decode (.frameByte .idByte 0 0x92) = .error .notOfItsClass ∧
    decode (.frameByte .tpByte0 0 0x61) = .error .notOfItsClass ∧
    decode (.frameByte .flags 0 0x70) = .error .notOfItsClass ∧
    decode (.frameByte .terminator 0 0x7F) = .error .notOfItsClass := by decide

/-! ## One step -/

/-- The state a step answers (`State.reset` stands for no answer). -/
def after (i : Instr) (s : State) : State :=
  match exec i s with
  | .next t => t
  | .fault _ => State.reset
  | .refused _ => State.reset

theorem exec_after (i : Instr) (s : State) (h : ∃ t, exec i s = .next t) : exec i s = .next (after i s) := by
  obtain ⟨t, ht⟩ := h
  simp [after, ht]

/-- A command answers: its meaning is a `runCommand`. -/
theorem command_next (o : Opcode) (s : State) : exec o.instr s = .next (after o.instr s) := by
  refine exec_after _ _ ?_
  cases o <;> simp [Opcode.instr, exec, execNop, execCrc7Seed, execCrc7Upd, execMtpEnc, execMtpDec, execFsmEnc,
    execFsmDec, execTcCmp, execTcExp, execStSmooth, execStWarmsh, execStCommit, execStGet, execStZap, execReserved,
    runCommand_eq]

/-- The state of scenario S1 before the encode. -/
def s1 : State :=
  { State.reset with cfg := 1, fflags := 0x37, fid := 0x9883, ftemp := 305, fambl := 0x2A, lim := 64 }

/-- A state with these bytes at the front of the buffer, the window around them, and a stale descriptor. -/
def withBytes (bytes : List Byte) : State :=
  bufWriteList 0 bytes { State.reset with lim := BitVec.ofNat 8 bytes.length, fflags := 0x3F, fid := 0x1234 }

/-- The bytes of scenario S1. -/
def s1Bytes : List Byte := [0x76, 0x03, 0x18, 0x41, 0x27, 0x6B, 0x2A, 0x44]

/-- A store with all five bytes of hour 7 as the first commit of 42_history.md R180 leaves them. -/
def hour7 : State :=
  { State.reset with h := 7, nv := [(7, 56), (31, 56), (55, 42), (79, 42), (103, 0x7F)], rndIn := [0x13, 0xFD] }

/-- V0. -/
theorem test_nop : (after .nop { s1 with status := 0x20 }).status = 0x01 := by decide
theorem test_reserved : (after (.reserved 0x32) s1).cmd = 0x32 ∧ (after (.reserved 0x32) s1).status = 0xF0 := by decide

/-- V5. -/
theorem test_crc7Seed : (after .crc7Seed { s1 with b := 0x80 }).crc = 0x00 := by decide
/-- R201 by hand: the seed a zero byte leaves as it is (log 22). -/
theorem test_crc7Upd_fixed_seed : (after .crc7Upd { s1 with crc := 0x6D, b := 0x00 }).crc = 0x6D := by decide
/-- V5. -/
theorem test_crc7Upd : (after .crc7Upd { s1 with crc := 0x3A, b := 0x27 }).crc = 0x21 := by decide

set_option maxRecDepth 8000 in
/-- V6: the low clamp with the power flag, and the last place a trailer fits. -/
theorem test_mtpEnc : bufBytes (after .mtpEnc { s1 with ftemp := 0x8000, fflags := 0x08 }) 0 3 = [0x50, 0x00, 0x3F] := by
  decide
theorem test_mtpEnc_room :
    (after .mtpEnc { s1 with pos := 61 }).pos = 64 ∧ (after .mtpEnc { s1 with pos := 62 }).status = 0x30 ∧
    (after .mtpEnc { s1 with pos := 5, lim := 4 }).status = 0x10 := by decide

set_option maxRecDepth 8000 in
/-- V6: biased 0, and a CRC byte with bit 7 set. -/
theorem test_mtpDec : (after .mtpDec (withBytes [0x40, 0x00, 0x7A])).ftemp = 0xFEC0 := by decide
set_option maxRecDepth 8000 in
theorem test_mtpDec_crc : (after .mtpDec (withBytes [0x41, 0x27, 0xA1])).status = 0x20 := by decide

set_option maxRecDepth 8000 in
/-- V7: scenario S1, and a clamped temperature with an ID whose top bits are set. -/
theorem test_fsmEnc : bufBytes (after .fsmEnc s1) 0 9 = s1Bytes ++ [0xFF] := by decide
set_option maxRecDepth 8000 in
theorem test_fsmEnc_high_id :
    bufBytes (after .fsmEnc { s1 with fflags := 0x2F, fid := 0x80FE, ftemp := 0xFE70, fambl := 0x80 }) 0 9 =
      [0x76, 0x7E, 0x00, 0x50, 0x00, 0x6A, 0x80, 0x10, 0xFF] := by decide

set_option maxRecDepth 8000 in
/-- V8: scenario S1, and a temperature byte with bit 7 set under a right CRC. -/
theorem test_fsmDec : (after .fsmDec (withBytes s1Bytes)).desc = s1.desc ∧ (after .fsmDec (withBytes s1Bytes)).pos = 8 := by
  decide
theorem test_fsmDec_bit7 : (after .fsmDec (withBytes [0x70, 0x41, 0xA7, 0x60, 0x26])).status = 0x20 := by decide

/-- V1. -/
theorem test_tcCmp : (after .tcCmp { s1 with a := 305 }).q = 0x38 ∧ (after .tcCmp { s1 with a := 0xFFFF }).q = 0 := by decide
theorem test_tcCmp_edges : (after .tcCmp { s1 with a := 383 }).q = 0x5F ∧ (after .tcCmp { s1 with a := 384 }).q = 0x60 := by
  decide
theorem test_tcExp : (after .tcExp { s1 with b := 0x5F }).q = 0x017E ∧ (after .tcExp { s1 with b := 0xFF }).q = 0x7FFF := by
  decide
theorem test_tcExp_above_ceiling : (after .tcExp { s1 with b := 0xFE }).q = 0x0640 := by decide

/-- V2: a sample of 0xFB gives `r` = 3. -/
theorem test_stSmooth : (after .stSmooth { s1 with c := 66, b := 74, rndIn := [0xFB] }).q = 67 := by decide
theorem test_stSmooth_bound : (after .stSmooth { s1 with c := 1, b := 0, rndIn := [7] }).q = 1 := by decide

/-- V3. -/
theorem test_stWarmsh : (after .stWarmsh { s1 with b := 0x2A, c := 0x7F }).q = 0x55 := by decide
theorem test_stWarmsh_vote : (after .stWarmsh { s1 with b := 0xFE, c := 0x80 }).q = 0x3F := by decide

/-- V4: the first two commits of hour 7. -/
theorem test_stCommit_first :
    (after .stCommit { s1 with h := 7, a := 305, b := 42, c := 2 }).nv = hour7.nv := by decide
theorem test_stCommit_second :
    (after .stCommit { hour7 with a := 341, b := 50, c := 0xFF }).nv =
      [(7, 74), (31, 58), (55, 50), (79, 43), (103, 0x3F)] := by decide

/-- V4. -/
theorem test_stGet : (after .stGet { hour7 with b := 1 }).q = 0x38 := by decide
theorem test_stGet_bad_set :
    (after .stGet { hour7 with b := 5 }).q = 0xFF ∧ (after .stGet { hour7 with b := 5 }).status = 0x10 := by decide

/-- V4: an erase of two bytes out of five, and of none out of none. -/
theorem test_stZap : (after .stZap { hour7 with a := 2 }).nv = [(55, 42), (79, 42), (103, 0x7F)] ∧
    (after .stZap { hour7 with a := 2 }).status = 0x01 := by decide
theorem test_stZap_empty : (after .stZap { s1 with a := 0 }).status = 0x03 := by decide

/-- V0: a wide write, the dropped high byte of `CMD`, and reads. -/
theorem test_scriptWr :
    (after (.scriptWr 0x0D 0xFF) s1).h = 0x1F ∧ (after (.scriptWr 0x00 0x0100) s1).cmd = 0 ∧
    (after (.scriptWr 0x01 0xFF) s1) = s1 := by decide
theorem test_scriptRd :
    (after (.scriptRd 0x07) s1).busData = 0x9883 ∧ (after (.scriptRd 0x80) s1).busData = 0 := by decide

/-- R110: a byte of each class, loaded at offset 63. -/
theorem test_wire_bytes :
    bufRead (after (.wireFullHeader 63 true false false) s1) 63 = 0x74 ∧
    bufRead (after (.wireIdByte 63 0x7F) s1) 63 = 0x7F ∧
    bufRead (after (.wireTpByte0 63 true 0xF) s1) 63 = 0x5F ∧
    bufRead (after (.wireTpByte1 63 0x27) s1) 63 = 0x27 ∧
    bufRead (after (.wireFlags 63 true 2) s1) 63 = 0x6A ∧
    bufRead (after (.wireAmbientLight 63 0xFE) s1) 63 = 0xFE ∧
    bufRead (after (.wireCrc 63 0x65) s1) 63 = 0x65 ∧
    bufRead (after (.wireTerminator 63) s1) 63 = 0xFF := by decide

/-! ## The step -/

/-- From reset, a placed command runs as the very next step; an undecodable word is refused by name. -/
theorem test_step_command : step (State.reset.withFetchWord 8 0x30) = exec .fsmEnc State.reset := rfl
theorem test_step_script : step (State.reset.withFetchWord 32 0x80040003) = .next { State.reset with pos := 3 } := rfl
theorem test_step_refuses : step (State.reset.withFetchWord 32 0x40000000) = .refused .notAScriptWord := rfl
theorem test_step_idle : step State.reset = .next State.reset := rfl

/-! ## Witnesses: the hypotheses of each statement hold together somewhere -/

theorem witness_ResetPutsEveryRegisterToZero : State.reset.lim = 0 ∧ isFrameCommand .fsmDec = true := by decide

theorem witness_ResetKeepsStoreAndClearsRegisters :
    { s1 with pending := [.reset] }.pending = .reset :: [] := rfl

theorem witness_StepRunsTheDecodedLine :
    (∃ (s : State) (l : HostLine) (rest : List HostEvent), s.pending = .line l :: rest ∧
      decode l = .ok (.scriptWr 0xFF 0xFFFF)) ∧
    (∃ (s : State) (l : HostLine) (rest : List HostEvent), s.pending = .line l :: rest ∧
      decode l = .error .notAScriptWord) ∧
    (∃ (s : State) (l : HostLine) (rest : List HostEvent), s.pending = .line l :: rest ∧
      decode l = .error .notOfItsClass) :=
  ⟨⟨{ s1 with pending := [.line (.access 0x80FFFFFF)] }, _, _, rfl, by decide⟩,
   ⟨{ s1 with pending := [.line (.access 0x81000000)] }, _, _, rfl, by decide⟩,
   ⟨{ s1 with pending := [.line (.frameByte .flags 63 0x64)] }, _, _, rfl, by decide⟩⟩

theorem witness_OtherEventsDoOnlyWhatTheySay :
    s1.pending = [] ∧ Inv { hour7 with pending := [.storeWrite 0xFFFF 0xFF] } := by decide

theorem witness_DecodeOfEncodeIsTheInstruction :
    (Instr.scriptWr 0xFF 0xFFFF).wf = true ∧ (Instr.reserved 0xFF).wf = true ∧
    (Instr.wireFullHeader 63 true true false).wf = true ∧ (Instr.wireAmbientLight 63 0xFE).wf = true := by decide

theorem witness_EncodeOfDecodeIsTheLine :
    decode (.access 0x00FF0000) = .ok (.scriptRd 0xFF) ∧
    ∀ cls off b, HostLine.access 0x00FF0000 ≠ .frameByte cls off b :=
  ⟨by decide, fun _ _ _ => by simp⟩

theorem witness_RegisterWriteStoresLowBits : Reg.h ≠ .cmd ∧ Reg.h ≠ .status ∧ Reg.h ≠ .q := by decide

theorem witness_IgnoredWritesChangeNothing :
    ∀ addr ∈ [0x01#8, 0x0E#8, 0x0F#8, 0x3F#8, 0x80#8, 0xFF#8],
      addr = 0x01 ∨ addr = 0x0E ∨ (0x0F ≤ addr.toNat ∧ addr.toNat ≤ 0x3F) ∨ 0x80 ≤ addr.toNat := by decide

theorem witness_BufferWriteStoresOneByte :
    ∀ addr ∈ [0x40#8, 0x7F#8], 0x40 ≤ addr.toNat ∧ addr.toNat ≤ 0x7F := by decide

theorem witness_ReadsReturnAndChangeNothing :
    (0x0E#8 = regAddress .q) ∧ (0x40 ≤ (0x7F#8).toNat ∧ (0x7F#8).toNat ≤ 0x7F) ∧
    (0x0F ≤ (0x3F#8).toNat ∧ (0x3F#8).toNat ≤ 0x3F) ∧ 0x80 ≤ (0x80#8).toNat := by decide

theorem witness_PseudoInstructionsDoWhatTheySay : 62 + [0x41#8, 0x27#8].length ≤ 64 := by decide

/-- `FSM.ENC`, `FSM.DEC`, `MTP.ENC` and `MTP.DEC` succeed somewhere. -/
theorem exec_fsmEnc_s1 : exec .fsmEnc s1 = .next (after .fsmEnc s1) ∧ (after .fsmEnc s1).ok = true :=
  ⟨command_next .fsmEnc _, by decide⟩
set_option maxRecDepth 8000 in
theorem exec_fsmDec_s1 :
    exec .fsmDec (withBytes s1Bytes) = .next (after .fsmDec (withBytes s1Bytes)) ∧
      (after .fsmDec (withBytes s1Bytes)).ok = true :=
  ⟨command_next .fsmDec _, by decide⟩
theorem exec_mtpEnc_s1 : exec .mtpEnc s1 = .next (after .mtpEnc s1) ∧ (after .mtpEnc s1).ok = true :=
  ⟨command_next .mtpEnc _, by decide⟩

theorem witness_OnlyCommandsWriteStatus :
    (∃ o s t, exec (Opcode.instr o) s = .next t ∧ t.fin = true) ∧ (0x02#8 ≠ 0) ∧
    (∃ t, exec (.scriptWr 0x02 1) s1 = .next t) ∧ (∃ t, exec (.scriptRd 0x02) s1 = .next t) ∧
    (∃ t, exec (WireByte.terminator.instr 63) s1 = .next t) :=
  ⟨⟨.stZap, s1, after .stZap s1, command_next .stZap _, by decide⟩, by decide,
    ⟨_, rfl⟩, ⟨_, rfl⟩, ⟨_, rfl⟩⟩

/-- Each failure code is raised somewhere. -/
theorem witness_FailureCodesByCommand :
    (∃ t, exec .stCommit { s1 with h := 24 } = .next t ∧ t.ok = false) ∧
    (∃ t, exec .fsmDec (withBytes [0x70]) = .next t ∧ t.ok = false) ∧
    (∃ t, exec .mtpEnc { s1 with pos := 62 } = .next t ∧ t.ok = false) ∧
    (∃ t, exec (Opcode.instr (.reserved 0xFF)) s1 = .next t ∧ t.ok = false) :=
  ⟨⟨after .stCommit { s1 with h := 24 }, command_next .stCommit _, by decide⟩,
   ⟨after .fsmDec (withBytes [0x70]), command_next .fsmDec _, by decide⟩,
   ⟨after .mtpEnc { s1 with pos := 62 }, command_next .mtpEnc _, by decide⟩,
   ⟨after (.reserved 0xFF) s1, command_next (.reserved 0xFF) _, by decide⟩⟩

theorem witness_FailedCommandChangesOnlyWhatR276Lists :
    ∃ t, exec (Opcode.instr .stGet) { s1 with h := 31 } = .next t ∧ t.ok = false :=
  ⟨after .stGet { s1 with h := 31 }, command_next .stGet _, by decide⟩

theorem witness_CommandsWriteOnlyTheirOwnRegisters :
    (∃ t, exec (Opcode.instr .nop) s1 = .next t) ∧ Opcode.nop ∉ [Opcode.crc7Seed, .crc7Upd] ∧
    isFrameCommand .nop = false ∧ Opcode.nop ∉ [Opcode.mtpDec, .fsmDec] ∧
    Opcode.nop ∉ [Opcode.tcCmp, .tcExp, .stSmooth, .stWarmsh, .stGet, .stZap] ∧
    Opcode.nop ∉ [Opcode.mtpEnc, .fsmEnc] ∧ Opcode.nop ∉ [Opcode.stCommit, .stZap] ∧
    Opcode.nop ∉ [Opcode.stSmooth, .stCommit] :=
  ⟨⟨_, rfl⟩, by decide⟩

theorem witness_IdempotentCommandsChangeNothingTwice :
    (Opcode.stGet ∈ [Opcode.nop, .crc7Seed, .tcCmp, .tcExp, .stWarmsh, .stGet] ∧
      ∃ t, exec (Opcode.instr .stGet) hour7 = .next t) ∧
    (Inv { hour7 with a := 5 } ∧ ∃ t, exec .stZap { hour7 with a := 5 } = .next t ∧ t.fin = true) :=
  ⟨⟨by decide, _, command_next _ _⟩,
   ⟨by decide, after .stZap { hour7 with a := 5 }, command_next .stZap _, by decide⟩⟩

theorem witness_EveryStepKeepsTheStateGood :
    Inv { hour7 with pending := [.reset] } ∧ ∃ t, step { hour7 with pending := [.reset] } = .next t :=
  ⟨by decide, _, rfl⟩

theorem witness_ReservedOpcodeFailsWithBadOp : ∀ op ∈ [0x01#8, 0x55#8, 0xFF#8], isReservedOpcode op = true := by decide

theorem witness_CrcUpdateIsLinearAndOneToOne : crc7Upd 0x7F 0xFF = crc7Upd 0x7F 0xFF := rfl

theorem witness_CrcDetectsEverySingleBit : 1 < [0x41#8, 0x27#8].length ∧ 7 < 8 := by decide

/-- A full window, and one with a byte too few. -/
theorem witness_TrailerEncodeWritesThreeBytes :
    (goodWindow { s1 with pos := 61 } ∧ 3 ≤ { s1 with pos := 61 }.lim.toNat - { s1 with pos := 61 }.pos.toNat) ∧
    (¬ goodWindow { s1 with lim := 65 } ∧ ¬ goodWindow { s1 with pos := 65 }) ∧
    goodWindow { s1 with pos := 62 } ∧ { s1 with pos := 62 }.lim.toNat - { s1 with pos := 62 }.pos.toNat < 3 := by
  refine ⟨⟨⟨?_, ?_⟩, ?_⟩, ⟨fun h => ?_, fun h => ?_⟩, ⟨?_, ?_⟩, ?_⟩ <;>
    first | decide | exact absurd h.2 (by decide) | exact absurd h.1 (by decide)

set_option maxRecDepth 8000 in
theorem witness_TrailerDecodeChecksAndExtracts :
    (goodWindow (withBytes [0x5F, 0x7F, 0x0B]) ∧
      3 ≤ (withBytes [0x5F, 0x7F, 0x0B]).lim.toNat - (withBytes [0x5F, 0x7F, 0x0B]).pos.toNat ∧
      bufRead (withBytes [0x5F, 0x7F, 0x0B]) 0 &&& 0xE0 = 0x40 ∧
      (bufRead (withBytes [0x5F, 0x7F, 0x0B]) 1).getLsbD 7 = false ∧
      (bufRead (withBytes [0x5F, 0x7F, 0x0B]) 2).toNat = (crc7 0 [0x5F, 0x7F]).toNat) ∧
    (goodWindow (withBytes [0x41, 0x27]) ∧
      ¬ 3 ≤ (withBytes [0x41, 0x27]).lim.toNat - (withBytes [0x41, 0x27]).pos.toNat) ∧
    ¬ goodWindow { s1 with pos := 65 } :=
  ⟨⟨⟨by decide, by decide⟩, by decide⟩, ⟨⟨by decide, by decide⟩, by decide⟩, fun h => absurd h.1 (by decide)⟩

theorem witness_PackAndUnpackAreInverse : tpUnpack Params.default 0x41 0x27 = some (305, false) := by decide

theorem witness_TrailerRoundTrip : ∃ t, exec .mtpEnc s1 = .next t ∧ t.ok = true := ⟨_, exec_mtpEnc_s1⟩

theorem witness_TrailerDetectsEverySingleBit : (∃ t, exec .mtpEnc s1 = .next t ∧ t.ok = true) ∧ 2 < 3 ∧ 7 < 8 :=
  ⟨⟨_, exec_mtpEnc_s1⟩, by decide⟩

/-- The last place a nine-byte frame fits, the first where it does not, and each ground of `E_INVAL`. -/
theorem witness_FrameEncodeBuildsTheFrame :
    ({ s1 with pos := 55 }.cfg.getLsbD 1 = false ∧ goodWindow { s1 with pos := 55 } ∧
      ¬ refusedFields { s1 with pos := 55 }.desc ∧
      (frameOf s1.params (s1.cfg.getLsbD 0) s1.desc).length + 1 = 64 - 55) ∧
    { s1 with cfg := 3 }.cfg.getLsbD 1 = true ∧ ¬ goodWindow { s1 with lim := 65 } ∧
    refusedFields { s1 with fid := 0x80FF }.desc ∧ refusedFields { s1 with fambl := 0x00 }.desc := by
  refine ⟨⟨by decide, ⟨by decide, by decide⟩, ?_, by decide⟩, by decide, fun h => absurd h.2 (by decide), ?_, ?_⟩ <;>
    (unfold refusedFields; decide)

set_option maxRecDepth 8000 in
/-- A frame that fits, a window no frame fits, and a malformed window. -/
theorem witness_FrameDecodeAcceptsExactlyTheFrames :
    s1.params.wf ∧
    (goodWindow (withBytes s1Bytes) ∧ s1.desc.canonical s1.params ∧
      (frameOf s1.params true s1.desc).length = (withBytes s1Bytes).lim.toNat - (withBytes s1Bytes).pos.toNat ∧
      bufBytes (withBytes s1Bytes) 0 8 = frameOf s1.params true s1.desc) ∧
    (goodWindow (withBytes []) ∧
      ∀ d, ¬ (frameOf s1.params true d).length ≤ (withBytes []).lim.toNat - (withBytes []).pos.toNat) ∧
    ¬ goodWindow { s1 with pos := 65 } :=
  ⟨by decide, ⟨⟨by decide, by decide⟩, ⟨by decide, by decide⟩, by decide, by decide⟩,
    ⟨⟨by decide, by decide⟩, fun d h => by simp [frameOf, payloadOf, withBytes, bufWriteList] at h⟩,
    fun h => absurd h.1 (by decide)⟩

theorem witness_FrameRoundTrip :
    s1.params.wf ∧ exec .fsmEnc s1 = .next (after .fsmEnc s1) ∧ (after .fsmEnc s1).ok = true ∧
      (after .fsmEnc s1).pos.toNat ≤ (8#8).toNat ∧ (8#8).toNat ≤ 64 :=
  ⟨by decide, exec_fsmEnc_s1.1, exec_fsmEnc_s1.2, by decide, by decide⟩

set_option maxRecDepth 8000 in
theorem witness_DecodedFrameEncodesToItself :
    s1.params.wf ∧ exec .fsmDec (withBytes s1Bytes) = .next (after .fsmDec (withBytes s1Bytes)) ∧
      (after .fsmDec (withBytes s1Bytes)).ok = true ∧
      (after .fsmDec (withBytes s1Bytes)).pos.toNat + 1 ≤ (9#8).toNat ∧ (9#8).toNat ≤ 64 :=
  ⟨by decide, exec_fsmDec_s1.1, exec_fsmDec_s1.2, by decide, by decide⟩

theorem witness_OnlyTheTerminatorIsFF :
    (∃ t, exec .fsmEnc s1 = .next t ∧ t.ok = true) ∧ ∃ t, exec .mtpEnc s1 = .next t ∧ t.ok = true :=
  ⟨⟨_, exec_fsmEnc_s1⟩, _, exec_mtpEnc_s1⟩

set_option maxRecDepth 8000 in
/-- The escape of 45_full_frame.md R253: one bit apart, both accepted, with different lengths. -/
theorem witness_FlippedFrameNeverKeepsItsLength :
    (after .fsmDec (withBytes [0x70, 0x6A, 0x0B, 0x31, 0xFF])).ok = true ∧
    (after .fsmDec (withBytes [0x70, 0x6A, 0x0B, 0x31, 0xFF])).pos = 4 ∧
    (after .fsmDec (bufWrite 1 (0x6A ^^^ BitVec.twoPow 8 3) (withBytes [0x70, 0x6A, 0x0B, 0x31, 0xFF]))).ok = true ∧
    (after .fsmDec (bufWrite 1 (0x6A ^^^ BitVec.twoPow 8 3) (withBytes [0x70, 0x6A, 0x0B, 0x31, 0xFF]))).pos = 3 := by
  decide

theorem witness_FlippedFrameFailsOrIsShorter :
    exec .fsmEnc s1 = .next (after .fsmEnc s1) ∧ (after .fsmEnc s1).ok = true ∧
      s1.pos.toNat ≤ 7 ∧ 7 < (after .fsmEnc s1).pos.toNat ∧ s1.pos.toNat ≤ (64#8).toNat :=
  ⟨exec_fsmEnc_s1.1, exec_fsmEnc_s1.2, by decide, by decide, by decide⟩

theorem witness_PosMovesOnlyOnSuccessAndNeverWraps :
    (∃ t, exec (Opcode.instr .fsmEnc) s1 = .next t ∧ t.ok = true) ∧
    ∃ t, exec (Opcode.instr .mtpEnc) { s1 with pos := 62 } = .next t ∧ t.ok = false :=
  ⟨⟨_, exec_fsmEnc_s1⟩,
   ⟨after .mtpEnc { s1 with pos := 62 }, command_next .mtpEnc _, by decide⟩⟩

theorem witness_FrameCommandsStayInTheWindow :
    (∃ t, exec (Opcode.instr .fsmDec) (withBytes s1Bytes) = .next t) ∧
    ∀ off, (withBytes s1Bytes).pos.toNat ≤ off → off < (withBytes s1Bytes).lim.toNat →
      bufRead { withBytes s1Bytes with buf := (withBytes (s1Bytes ++ [0x55])).buf } off = bufRead (withBytes s1Bytes) off :=
  ⟨⟨_, command_next _ _⟩, fun off _ h => by
    have h8 : off < 8 := h
    interval_cases off <;> decide⟩

theorem witness_CompressCommandFollowsTheBands : s1.params.wf := by decide

/-- The least and the greatest values of every parameter. -/
theorem witness_ExpandInvertsCompress :
    Params.default.wf ∧
    ({ fullCrcSeed := 1, tempBias := 0, smoothShift := 1, cmpLowC := 0, cmpHighC := 1, unsetInt := 0xFFFF,
       statsBase := 0 } : Params).wf ∧
    ({ fullCrcSeed := 0x7F, tempBias := 447, smoothShift := 8, cmpLowC := 91, cmpHighC := 100, unsetInt := 1601,
       statsBase := 65416 } : Params).wf := by decide

theorem witness_SmoothIsBoundedAndFair : Params.default.wf ∧ 255 < 256 ∧ 7 < 2 ^ Params.default.smoothShift := by decide

/-- The last hour there is, and the first there is not. -/
theorem witness_CommitWritesFiveBytesOfTheHour :
    (Inv { hour7 with h := 23 } ∧ { hour7 with h := 23 }.h.toNat < 24) ∧
    Inv { hour7 with h := 24 } ∧ 24 ≤ { hour7 with h := 24 }.h.toNat := by decide

/-- The last byte of the region; the first hour and the first set beyond it. -/
theorem witness_GetReadsOneHistoryByte :
    ({ hour7 with h := 23, b := 4 }.h.toNat < 24 ∧ { hour7 with h := 23, b := 4 }.b.toNat < 5) ∧
    24 ≤ { hour7 with h := 24 }.h.toNat ∧ 5 ≤ { hour7 with b := 5 }.b.toNat := by decide

theorem witness_ZapErasesWithinTheBudget : Inv { hour7 with a := 2 } := by decide

theorem witness_RepeatedZapUnsetsTheRegion : Inv { hour7 with a := 7 } ∧ 120 ≤ 18 * { hour7 with a := 7 }.a.toNat := by
  decide

theorem witness_OnlyZapUnsetsAHistoryByte :
    Inv hour7 ∧ (∃ t, exec (Opcode.instr .stCommit) hour7 = .next t) ∧ Opcode.stCommit ≠ .stZap ∧
    hour7.params.statsBase + 120 ≤ 120 :=
  ⟨by decide, ⟨_, command_next _ _⟩, by decide, by decide⟩

theorem witness_InstructionsKeepTheHistoryLegal :
    Inv hour7 ∧ HistoryLegal hour7 ∧ ∃ t, exec .stCommit hour7 = .next t :=
  ⟨by decide, by unfold HistoryLegal; decide, _, command_next .stCommit _⟩

end Sys2Proof.Tests
end

/-! PROOFS. What a command does as one relation, and from it the statements on the state as a whole (10_state.md). -/

namespace Sys2Proof.Proofs

open Sys2Proof.Machine

/-! ## The steps of a command -/

/-- `STATUS` after a command: a success with its `FIN`, or a failure with its code (40_control.md R142 (3)). -/
def statusOf : Except FailCode Bool → Byte
  | .ok fin => okStatus fin
  | .error e => failStatus e

/-- The last step of a command (10_state.md R33). -/
def writeStatus (r : Except FailCode Bool) (t : State) : State := { t with status := statusOf r }

/-- What `ST.COMMIT` does for an hour there is (42_history.md R180). -/
def committed (s : State) : State :=
  commitBitmap (commitQuantity 2 (alclamp s.b)
    (commitQuantity 0 (BitVec.ofNat 8 (compress s.params s.temperature)) s))

/-- `CommandEffect s o r t`: with `CMD` already written in `s`, the command `o` ends with the result `r`, and its own
steps leave `t`, in which `STATUS` is still to be written. One constructor per way a command can end, each with the
guards of its rule; the next state is a record update of `s`, so what the command leaves alone can be read off it.
`exec_of_effect` and `commandEffect_total` tie the relation to `exec`. -/
inductive CommandEffect (s : State) : Opcode → Except FailCode Bool → State → Prop
  | nop : CommandEffect s .nop (.ok false) s
  | crc7Seed : CommandEffect s .crc7Seed (.ok false) { s with crc := s.b.setWidth 7 }
  | crc7Upd : CommandEffect s .crc7Upd (.ok false) { s with crc := crc7Upd s.crc s.b }
  | mtpEnc (hw : s.badWindow = false) (hroom : 3 ≤ s.room) :
      CommandEffect s .mtpEnc (.ok false)
        { s with
          buf := (bufWriteList s.pos.toNat (trailerBytes s.params s.ftemp.toInt s.desc.pl) s).buf
          pos := BitVec.ofNat 8 (s.pos.toNat + 3) }
  | mtpEncInval (hw : s.badWindow = true) : CommandEffect s .mtpEnc (.error .inval) s
  | mtpEncNoSpace (hw : s.badWindow = false) (hroom : s.room < 3) : CommandEffect s .mtpEnc (.error .noSpace) s
  | mtpDec {temp : Int} {pl : Bool} (hw : s.badWindow = false)
      (hparse : parseTrailer s.params s.window = some (temp, pl)) :
      CommandEffect s .mtpDec (.ok false)
        { s with
          fflags := packFlags false true false pl 0, fid := 0, ftemp := BitVec.ofInt 16 temp, fambl := 0
          pos := BitVec.ofNat 8 (s.pos.toNat + 3) }
  | mtpDecInval (hw : s.badWindow = true) : CommandEffect s .mtpDec (.error .inval) (emptyDescriptor s)
  | mtpDecWire (hw : s.badWindow = false) (hparse : parseTrailer s.params s.window = none) :
      CommandEffect s .mtpDec (.error .wire) (emptyDescriptor s)
  | fsmEnc (hsec : s.secCh = false) (hw : s.badWindow = false) (hd : s.desc.unsendable = false)
      (hroom : frameLen s.desc.idp s.desc.tpp s.desc.alp + 2 ≤ s.room) :
      CommandEffect s .fsmEnc (.ok false)
        { s with
          buf := (bufWriteList s.pos.toNat (frameBytes s.params s.occTx s.desc) s).buf
          pos := BitVec.ofNat 8 (s.pos.toNat + (frameLen s.desc.idp s.desc.tpp s.desc.alp + 1)) }
  | fsmEncInval (h : s.secCh = true ∨ s.badWindow = true ∨ s.desc.unsendable = true) :
      CommandEffect s .fsmEnc (.error .inval) s
  | fsmEncNoSpace (hsec : s.secCh = false) (hw : s.badWindow = false) (hd : s.desc.unsendable = false)
      (hroom : s.room < frameLen s.desc.idp s.desc.tpp s.desc.alp + 2) :
      CommandEffect s .fsmEnc (.error .noSpace) s
  | fsmDec {d : Desc} {n : Nat} (hw : s.badWindow = false)
      (hparse : parseFrame s.params s.window = some (d, n)) :
      CommandEffect s .fsmDec (.ok false)
        { s with
          fflags := d.fflags, fid := d.fid, ftemp := d.ftemp, fambl := d.fambl
          pos := BitVec.ofNat 8 (s.pos.toNat + (n + 1)) }
  | fsmDecInval (hw : s.badWindow = true) : CommandEffect s .fsmDec (.error .inval) (emptyDescriptor s)
  | fsmDecWire (hw : s.badWindow = false) (hparse : parseFrame s.params s.window = none) :
      CommandEffect s .fsmDec (.error .wire) (emptyDescriptor s)
  | tcCmp : CommandEffect s .tcCmp (.ok false) { s with q := BitVec.ofNat 16 (compress s.params s.temperature) }
  | tcExp : CommandEffect s .tcExp (.ok false) { s with q := expand s.params s.b }
  | stSmooth :
      CommandEffect s .stSmooth (.ok false)
        { s with
          q := BitVec.ofNat 16 (smooth s.params s.c.toNat s.b.toNat (drawBits s).1)
          rndIn := s.rndIn.tail, rndTaken := s.rndTaken + 1 }
  | stWarmsh : CommandEffect s .stWarmsh (.ok false) { s with q := (warmshift s.b s.warmVote).setWidth 16 }
  | stCommit (hhour : s.hour < 24) :
      CommandEffect s .stCommit (.ok false)
        { s with nv := (committed s).nv, rndIn := (committed s).rndIn, rndTaken := (committed s).rndTaken }
  | stCommitInval (hhour : 24 ≤ s.hour) : CommandEffect s .stCommit (.error .inval) s
  | stGet (hhour : s.hour < 24) (hset : s.b.toNat < 5) :
      CommandEffect s .stGet (.ok false)
        { s with q := (nvRead s (slot s.params s.b.toNat s.hour)).setWidth 16 }
  | stGetInval (h : 24 ≤ s.hour ∨ 5 ≤ s.b.toNat) : CommandEffect s .stGet (.error .inval) { s with q := 0x00FF }
  | stZap {n : Nat} {fin : Bool} {t : State} (hloop : zapLoop s.budget (regionAddresses s.params) 0 s = (t, n, fin)) :
      CommandEffect s .stZap (.ok fin) { s with nv := t.nv, q := BitVec.ofNat 16 n }
  | reserved (op : Byte) : CommandEffect s (.reserved op) (.error .badOp) s

/-! ## The operations whose frame the relation writes out -/

theorem advance_bufWriteList (off n : Nat) (vs : List Byte) (s : State) :
    (bufWriteList off vs s).advance n =
      { s with buf := (bufWriteList off vs s).buf, pos := BitVec.ofNat 8 (s.pos.toNat + n) } :=
  congrArg (State.advance n) (bufWriteList_eq off vs s)

theorem drawBits_eq (s : State) : (drawBits s).2 = { s with rndIn := s.rndIn.tail, rndTaken := s.rndTaken + 1 } :=
  (drawRnd_eq s).1

/-- One quantity of a commit: its last slot, and then its smoothed slot, started from the code or folded in with a
fresh sample (42_history.md R180). -/
theorem commitQuantity_cases (set : Nat) (code : Byte) (s : State) :
    let u := (nvUpdate (slot s.params set s.hour) code s).1
    let old := nvRead u (slot s.params (set + 1) s.hour)
    old = byteFF ∧ commitQuantity set code s = (nvUpdate (slot s.params (set + 1) s.hour) code u).1 ∨
    old ≠ byteFF ∧ commitQuantity set code s =
      (nvUpdate (slot s.params (set + 1) s.hour)
        (BitVec.ofNat 8 (smooth s.params old.toNat code.toNat (drawBits u).1)) (drawBits u).2).1 := by
  intro u old
  have hframe : u = { s with nv := u.nv } := nvUpdate_eq _ _ _
  have hp : u.params = s.params := by rw [hframe]
  have hh : u.hour = s.hour := by rw [hframe]; rfl
  have hdraw : (drawBits u).2.params = s.params ∧ (drawBits u).2.hour = s.hour := by
    rw [drawBits_eq]; exact ⟨hp, hh⟩
  by_cases hold : old = byteFF
  · refine .inl ⟨hold, ?_⟩
    change (if nvRead u (slot u.params (set + 1) u.hour) = byteFF then _ else _) = _
    rw [hp, hh, if_pos hold]
  · refine .inr ⟨hold, ?_⟩
    change (if nvRead u (slot u.params (set + 1) u.hour) = byteFF then _ else
      (nvUpdate (slot (drawBits u).2.params (set + 1) (drawBits u).2.hour)
        (BitVec.ofNat 8 (smooth (drawBits u).2.params (nvRead u (slot u.params (set + 1) u.hour)).toNat code.toNat
          (drawBits u).1)) (drawBits u).2).1) = _
    rw [hp, hh, hdraw.1, hdraw.2, if_neg hold]

/-- A commit of one quantity changes nothing but the store and the random port. -/
theorem commitQuantity_eq (set : Nat) (code : Byte) (s : State) :
    commitQuantity set code s =
      { s with
        nv := (commitQuantity set code s).nv
        rndIn := (commitQuantity set code s).rndIn
        rndTaken := (commitQuantity set code s).rndTaken } := by
  obtain ⟨-, h⟩ | ⟨-, h⟩ := commitQuantity_cases set code s
  · rw [h, nvUpdate_eq, nvUpdate_eq]
  · rw [h, nvUpdate_eq, drawBits_eq, nvUpdate_eq]

/-- A commit changes nothing but the store and the random port. -/
theorem committed_eq (s : State) :
    committed s =
      { s with nv := (committed s).nv, rndIn := (committed s).rndIn, rndTaken := (committed s).rndTaken } := by
  unfold committed commitBitmap
  rw [nvUpdate_eq, commitQuantity_eq 2, commitQuantity_eq 0]

/-! ## The relation is what `exec` does -/

/-- Every command ends in one of the ways of `CommandEffect`. -/
theorem commandEffect_total (s : State) (o : Opcode) : ∃ r t, CommandEffect s o r t := by
  cases o with
  | nop => exact ⟨_, _, .nop⟩
  | crc7Seed => exact ⟨_, _, .crc7Seed⟩
  | crc7Upd => exact ⟨_, _, .crc7Upd⟩
  | mtpEnc =>
    cases hw : s.badWindow
    · by_cases hroom : s.room < 3
      · exact ⟨_, _, .mtpEncNoSpace hw hroom⟩
      · exact ⟨_, _, .mtpEnc hw (by omega)⟩
    · exact ⟨_, _, .mtpEncInval hw⟩
  | mtpDec =>
    cases hw : s.badWindow
    · cases hparse : parseTrailer s.params s.window with
      | none => exact ⟨_, _, .mtpDecWire hw hparse⟩
      | some r => exact ⟨_, _, .mtpDec hw hparse⟩
    · exact ⟨_, _, .mtpDecInval hw⟩
  | fsmEnc =>
    by_cases h : s.secCh = true ∨ s.badWindow = true ∨ s.desc.unsendable = true
    · exact ⟨_, _, .fsmEncInval h⟩
    · obtain ⟨hsec, hw, hd⟩ : s.secCh = false ∧ s.badWindow = false ∧ s.desc.unsendable = false := by simpa using h
      by_cases hroom : s.room < frameLen s.desc.idp s.desc.tpp s.desc.alp + 2
      · exact ⟨_, _, .fsmEncNoSpace hsec hw hd hroom⟩
      · exact ⟨_, _, .fsmEnc hsec hw hd (by omega)⟩
  | fsmDec =>
    cases hw : s.badWindow
    · cases hparse : parseFrame s.params s.window with
      | none => exact ⟨_, _, .fsmDecWire hw hparse⟩
      | some r => exact ⟨_, _, .fsmDec hw hparse⟩
    · exact ⟨_, _, .fsmDecInval hw⟩
  | tcCmp => exact ⟨_, _, .tcCmp⟩
  | tcExp => exact ⟨_, _, .tcExp⟩
  | stSmooth => exact ⟨_, _, .stSmooth⟩
  | stWarmsh => exact ⟨_, _, .stWarmsh⟩
  | stCommit =>
    by_cases hhour : s.hour < 24
    · exact ⟨_, _, .stCommit hhour⟩
    · exact ⟨_, _, .stCommitInval (by omega)⟩
  | stGet =>
    by_cases h : 24 ≤ s.hour ∨ 5 ≤ s.b.toNat
    · exact ⟨_, _, .stGetInval h⟩
    · exact ⟨_, _, .stGet (by omega) (by omega)⟩
  | stZap => exact ⟨_, _, .stZap rfl⟩
  | reserved op => exact ⟨_, _, .reserved op⟩

theorem runCommand_of_ok {op : Byte} {body : State → Except FailCode (State × Bool)} {onFail : State → State}
    {s u t : State} {fin : Bool} (hu : { s with cmd := op } = u) (h : body u = .ok (t, fin)) :
    runCommand op body onFail s = .next (writeStatus (.ok fin) t) := by
  subst hu; exact runCommand_ok h

theorem runCommand_of_error {op : Byte} {body : State → Except FailCode (State × Bool)} {onFail : State → State}
    {s u : State} {e : FailCode} (hu : { s with cmd := op } = u) (h : body u = .error e) :
    runCommand op body onFail s = .next (writeStatus (.error e) (onFail u)) := by
  subst hu; exact runCommand_error h

/-- What `CommandEffect` says a command does from the state with its opcode in `CMD`, `exec` does. -/
theorem exec_of_effect {o : Opcode} {s t : State} {r : Except FailCode Bool}
    (h : CommandEffect { s with cmd := encodeOpcode o } o r t) :
    exec o.instr s = .next (writeStatus r t) := by
  generalize hu : ({ s with cmd := encodeOpcode o } : State) = u at h
  cases h with simp only [Opcode.instr, exec, execNop, execCrc7Seed, execCrc7Upd, execMtpEnc, execMtpDec, execFsmEnc,
    execFsmDec, execTcCmp, execTcExp, execStSmooth, execStWarmsh, execStCommit, execStGet, execStZap, execReserved]
  | nop | crc7Seed | crc7Upd | tcCmp | tcExp | stWarmsh => exact runCommand_of_ok hu rfl
  | mtpEnc hw hroom => exact runCommand_of_ok hu (by simp [hw, Nat.not_lt.2 hroom, advance_bufWriteList])
  | mtpEncInval hw => exact runCommand_of_error hu (by simp [hw])
  | mtpEncNoSpace hw hroom => exact runCommand_of_error hu (by simp [hw, hroom])
  | mtpDec hw hparse => exact runCommand_of_ok hu (by simp [hw, hparse, State.setDesc, State.advance])
  | mtpDecInval hw => exact runCommand_of_error hu (by simp [hw])
  | mtpDecWire hw hparse => exact runCommand_of_error hu (by simp [hw, hparse])
  | fsmEnc hsec hw hd hroom =>
    exact runCommand_of_ok hu (by simp [hsec, hw, hd, Nat.not_lt.2 hroom, advance_bufWriteList])
  | fsmEncInval h =>
    refine runCommand_of_error hu ?_
    rcases h with h | h | h <;> simp [h]
  | fsmEncNoSpace hsec hw hd hroom => exact runCommand_of_error hu (by simp [hsec, hw, hd, hroom])
  | fsmDec hw hparse => exact runCommand_of_ok hu (by simp [hw, hparse, State.setDesc, State.advance])
  | fsmDecInval hw => exact runCommand_of_error hu (by simp [hw])
  | fsmDecWire hw hparse => exact runCommand_of_error hu (by simp [hw, hparse])
  | stSmooth => exact runCommand_of_ok hu (by simp [drawBits_eq])
  | stCommit hhour =>
    refine runCommand_of_ok hu ?_
    rw [← committed_eq, if_neg (Nat.not_le.2 hhour)]
    rfl
  | stCommitInval hhour => exact runCommand_of_error hu (by simp [hhour])
  | stGet hhour hset => exact runCommand_of_ok hu (by simp [Nat.not_le.2 hhour, Nat.not_le.2 hset])
  | stGetInval h => exact runCommand_of_error hu (by simp [h])
  | @stZap n fin v hloop =>
    have hv : v = { u with nv := v.nv } := by
      simpa only [hloop] using zapLoop_eq u.budget (regionAddresses u.params) 0 u
    exact runCommand_of_ok hu (by simp only [hloop]; rw [hv])
  | reserved => exact runCommand_of_error hu rfl

/-- Whatever next state a command answers, `CommandEffect` says how it came about; `STATUS` is written last. -/
theorem effect_of_exec {o : Opcode} {s t : State} (h : exec o.instr s = .next t) :
    ∃ r u, CommandEffect { s with cmd := encodeOpcode o } o r u ∧ t = writeStatus r u := by
  obtain ⟨r, u, hu⟩ := commandEffect_total { s with cmd := encodeOpcode o } o
  rw [exec_of_effect hu] at h
  exact ⟨r, u, hu, (Host.Outcome.next.inj h).symm⟩

/-! ## `STATUS` -/

theorem statusOf_legal (r : Except FailCode Bool) : statusOf r ∈ legalStatuses := by
  rcases r with e | fin
  · cases e <;> decide
  · cases fin <;> decide

/-- `STATUS.OK` says whether the command succeeded, and `ERR` is 0 exactly then (10_state.md R32). -/
theorem statusOf_bits (r : Except FailCode Bool) :
    ((statusOf r).getLsbD 0 = true ↔ (statusOf r).extractLsb' 4 4 = 0) ∧
    (statusOf r).getLsbD 2 = false ∧ (statusOf r).getLsbD 3 = false := by
  rcases r with e | fin
  · cases e <;> decide
  · cases fin <;> decide

@[simp] theorem writeStatus_ok (fin : Bool) (t : State) : (writeStatus (.ok fin) t).ok = true := by
  cases fin <;> simp [writeStatus, State.ok, statusOf, okStatus, statusWord]

@[simp] theorem writeStatus_ok_of_error (e : FailCode) (t : State) : (writeStatus (.error e) t).ok = false := by
  cases e <;> simp [writeStatus, State.ok, statusOf, failStatus, statusWord, errCode]

/-- `STATUS.FIN` after a command. -/
theorem writeStatus_fin (r : Except FailCode Bool) (t : State) : (writeStatus r t).fin = true ↔ r = .ok true := by
  rcases r with e | fin
  · cases e <;> simp [writeStatus, State.fin, statusOf, failStatus, statusWord, errCode]
  · cases fin <;> simp [writeStatus, State.fin, statusOf, okStatus, statusWord]

/-! ## What each command leaves alone -/

section Frame

variable {s t : State} {o : Opcode} {r : Except FailCode Bool}

/-- Only `ST.ZAP` sets `FIN`. -/
theorem CommandEffect.eq_stZap_of_fin (h : CommandEffect s o (.ok true) t) : o = .stZap := by
  cases h; rfl

theorem CommandEffect.cmd_eq (h : CommandEffect s o r t) : t.cmd = s.cmd := by
  cases h <;> rfl

theorem CommandEffect.sameHostRegs (h : CommandEffect s o r t) : SameHostRegs s t := by
  cases h <;> exact ⟨rfl, rfl, rfl, rfl, rfl, rfl⟩

theorem CommandEffect.sameOutside (h : CommandEffect s o r t) : SameOutside s t := by
  cases h <;> exact ⟨rfl, rfl, rfl, rfl⟩

theorem CommandEffect.params_eq (h : CommandEffect s o r t) : t.params = s.params := h.sameOutside.1

theorem CommandEffect.resets_eq (h : CommandEffect s o r t) : t.resets = s.resets := by
  obtain ⟨-, -, hresets, -⟩ := h.sameOutside
  exact hresets

theorem CommandEffect.crc_eq (h : CommandEffect s o r t) (ho : o ∉ [.crc7Seed, .crc7Upd]) : t.crc = s.crc := by
  cases h with
  | crc7Seed | crc7Upd => simp at ho
  | _ => rfl

theorem CommandEffect.pos_eq (h : CommandEffect s o r t) (ho : isFrameCommand o = false) : t.pos = s.pos := by
  cases h with
  | mtpEnc | mtpDec | fsmEnc | fsmDec => simp [isFrameCommand] at ho
  | _ => rfl

theorem CommandEffect.desc_eq (h : CommandEffect s o r t) (ho : o ∉ [.mtpDec, .fsmDec]) :
    t.fflags = s.fflags ∧ t.fid = s.fid ∧ t.ftemp = s.ftemp ∧ t.fambl = s.fambl := by
  cases h with
  | mtpDec | mtpDecInval | mtpDecWire | fsmDec | fsmDecInval | fsmDecWire => simp at ho
  | _ => exact ⟨rfl, rfl, rfl, rfl⟩

theorem CommandEffect.q_eq (h : CommandEffect s o r t)
    (ho : o ∉ [.tcCmp, .tcExp, .stSmooth, .stWarmsh, .stGet, .stZap]) : t.q = s.q := by
  cases h with
  | tcCmp | tcExp | stSmooth | stWarmsh | stGet | stGetInval | stZap => simp at ho
  | _ => rfl

theorem CommandEffect.buf_eq (h : CommandEffect s o r t) (ho : o ∉ [.mtpEnc, .fsmEnc]) : t.buf = s.buf := by
  cases h with
  | mtpEnc | fsmEnc => simp at ho
  | _ => rfl

theorem CommandEffect.nv_eq (h : CommandEffect s o r t) (ho : o ∉ [.stCommit, .stZap]) : t.nv = s.nv := by
  cases h with
  | stCommit | stZap => simp at ho
  | _ => rfl

theorem CommandEffect.noDraw (h : CommandEffect s o r t) (ho : o ∉ [.stSmooth, .stCommit]) : NoDraw s t := by
  cases h with
  | stSmooth | stCommit => simp at ho
  | _ => exact ⟨rfl, rfl⟩

end Frame

theorem sameBuf_of_eq {s t : State} (hbuf : t.buf = s.buf) (hresets : t.resets = s.resets) : SameBuf s t := by
  intro off
  simp only [bufRead, hbuf, hresets]

theorem sameNv_of_eq {s t : State} (hnv : t.nv = s.nv) : SameNv s t := by
  intro a
  simp only [nvRead, hnv]

/-- Settles O20, one frame lemma of `CommandEffect` per register. -/
theorem commandsWriteOnlyTheirOwnRegisters : Obligations.CommandsWriteOnlyTheirOwnRegisters := by
  intro o s t h
  obtain ⟨r, u, hu, rfl⟩ := effect_of_exec h
  exact ⟨hu.cmd_eq, hu.sameHostRegs, hu.sameOutside, hu.crc_eq, hu.pos_eq, hu.desc_eq, hu.q_eq,
    fun ho => sameBuf_of_eq (hu.buf_eq ho) hu.resets_eq, fun ho => sameNv_of_eq (hu.nv_eq ho), hu.noDraw⟩

/-! ## Instructions that are no command -/

/-- A frame byte, as an instruction, is one buffer write (log 2). -/
theorem exec_wire (x : WireByte) (off : BitVec 6) (s : State) :
    exec (x.instr off) s = .next (bufWrite off.toNat (encodeWire x) s) := by
  cases x <;> rfl

/-- `CMD` is at bus address 0 only (20_memory.md R71). -/
theorem eq_zero_of_busTarget_cmd {addr : Byte} (h : busTarget addr = .register .cmd) : addr = 0 := by
  unfold busTarget at h
  split at h
  case h_1 h0 => exact BitVec.eq_of_toNat_eq h0
  case h_16 => split at h <;> cases h
  all_goals cases h

/-- The buffer addresses reach the 64 bytes of the buffer. -/
theorem lt_of_busTarget_buffer {addr : Byte} {off : Nat} (h : busTarget addr = .buffer off) : off < bufSize := by
  unfold busTarget at h
  split at h
  case h_16 =>
    split at h
    next hn =>
      obtain rfl := BusTarget.buffer.inj h
      show _ - 0x40 < 64
      omega
    next => cases h
  all_goals cases h

/-- What a bus write can do: run a command, write another register, write a buffer byte, or nothing (20_memory.md R71). -/
theorem exec_scriptWr_cases {addr : Byte} {v : BusWord} {s t : State} (h : exec (.scriptWr addr v) s = .next t) :
    (addr = 0 ∧ exec (decodeOpcode (v.setWidth 8)).instr s = .next t) ∨
    (∃ r, r ≠ .cmd ∧ t = writeReg r v s) ∨
    (∃ off < bufSize, t = bufWrite off (v.setWidth 8) s) ∨
    t = s := by
  change execScriptWr addr v s = .next t at h
  unfold execScriptWr at h
  split at h
  next hb => exact .inl ⟨eq_zero_of_busTarget_cmd hb, by rwa [← runOpcode_eq_exec]⟩
  next r hr hb => exact .inr (.inl ⟨r, hr, (Host.Outcome.next.inj h).symm⟩)
  next off hb => exact .inr (.inr (.inl ⟨off, lt_of_busTarget_buffer hb, (Host.Outcome.next.inj h).symm⟩))
  next => exact .inr (.inr (.inr (Host.Outcome.next.inj h).symm))

/-- A register write reaches neither `STATUS`, nor a memory, nor the parameters (20_memory.md R71). -/
theorem writeReg_frame {r : Reg} {v : BusWord} {s : State} :
    (writeReg r v s).status = s.status ∧ (writeReg r v s).buf = s.buf ∧ (writeReg r v s).nv = s.nv ∧
      (writeReg r v s).params = s.params := by
  cases r <;> exact ⟨rfl, rfl, rfl, rfl⟩

/-- Settles O17: a command's `STATUS` is `statusOf` of its result, and no other access writes the register. -/
theorem onlyCommandsWriteStatus : Obligations.OnlyCommandsWriteStatus := by
  refine ⟨fun o s t h => ?_, fun addr v s t haddr h => ?_, fun addr s t h => ?_, fun x off s t h => ?_⟩
  · obtain ⟨r, u, hu, rfl⟩ := effect_of_exec h
    obtain ⟨hok, h2, h3⟩ := statusOf_bits r
    refine ⟨hok, h2, h3, fun hfin => ?_⟩
    obtain rfl := (writeStatus_fin r u).1 hfin
    exact ⟨hu.eq_stZap_of_fin, writeStatus_ok true u⟩
  · obtain ⟨h0, -⟩ | ⟨r, -, rfl⟩ | ⟨off, -, rfl⟩ | rfl := exec_scriptWr_cases h
    · exact absurd h0 haddr
    · exact writeReg_frame.1
    · rfl
    · rfl
  · obtain rfl := Host.Outcome.next.inj h
    rfl
  · obtain rfl := Host.Outcome.next.inj ((exec_wire x off s).symm.trans h)
    rfl

theorem encodeOpcode_decodeOpcode (op : Byte) : encodeOpcode (decodeOpcode op) = op := by
  unfold decodeOpcode
  split
  case h_15 => rfl
  all_goals
    rename_i hop
    exact (BitVec.eq_of_toNat_eq hop).symm

/-- Settles O13: address 0 is `CMD`, and every command leaves its opcode there. -/
theorem cmdWriteRunsTheCommand : Obligations.CmdWriteRunsTheCommand := by
  intro v s
  have hrun : exec (.scriptWr 0x00 v) s = exec (decodeOpcode (v.setWidth 8)).instr s :=
    runOpcode_eq_exec _ s
  obtain ⟨r, u, hu⟩ := commandEffect_total { s with cmd := encodeOpcode (decodeOpcode (v.setWidth 8)) }
    (decodeOpcode (v.setWidth 8))
  exact ⟨hrun, _, hrun.trans (exec_of_effect hu), hu.cmd_eq.trans (encodeOpcode_decodeOpcode _)⟩

/-- Settles O22: both memories are empty, and the parameters are the defaults. -/
theorem resetStateIsGood : Obligations.ResetStateIsGood :=
  ⟨Memory.wf_reset.1, Memory.wf_reset.2, by decide, by decide⟩

/-! ## The window (10_state.md R37, R38) -/

theorem badWindow_eq_false {s : State} : s.badWindow = false ↔ s.pos.toNat ≤ s.lim.toNat ∧ s.lim.toNat ≤ 64 := by
  simp [State.badWindow, bufSize]

theorem window_length (s : State) : s.window.length = s.room := bufBytes_length s _ _

/-! ### How many bytes a parser takes -/

theorem length_of_parseTrailer {p : Params} {bytes : List Byte} {x : Int × Bool}
    (h : parseTrailer p bytes = some x) : 3 ≤ bytes.length := by
  unfold parseTrailer at h
  split at h
  next => simp
  next => cases h

theorem length_of_parseHeader {bytes rest : List Byte} {idp idh : Bool}
    (h : parseHeader bytes = some (idp, idh, rest)) : bytes.length = rest.length + 1 := by
  unfold parseHeader at h
  split at h
  next =>
    split at h
    next =>
      split at h
      next => cases h
      next => cases h; rfl
    next => cases h
  next => cases h

theorem length_of_parseId {idp idh : Bool} {bytes rest : List Byte} {id0 id1 : Byte}
    (h : parseId idp idh bytes = some (id0, id1, rest)) : bytes.length = rest.length + 2 * idp.toNat := by
  unfold parseId at h
  split at h
  next hidp =>
    split at h
    next =>
      split at h
      next =>
        simp only at h
        split at h
        next => cases h
        next => cases h; simp [hidp]
      next => cases h
    next => cases h
  next hidp => cases h; simp [hidp]

theorem length_of_parseTp {p : Params} {bytes rest : List Byte} {tpp pl : Bool} {temp : Int}
    (h : parseTp p bytes = some (tpp, temp, pl, rest)) : bytes.length = rest.length + 2 * tpp.toNat := by
  unfold parseTp at h
  split at h
  next =>
    split at h
    next =>
      split at h
      next =>
        split at h
        next => cases h; rfl
        next => cases h
      next => cases h
    next => cases h; rfl
  next => cases h

theorem length_of_parseFlags {bytes rest : List Byte} {alp : Bool} {occ : BitVec 2}
    (h : parseFlags bytes = some (alp, occ, rest)) : bytes.length = rest.length + 1 := by
  unfold parseFlags at h
  split at h
  next =>
    split at h
    next => cases h; rfl
    next => cases h
  next => cases h

theorem length_of_parseAmbient {alp : Bool} {bytes rest : List Byte} {level : Byte}
    (h : parseAmbient alp bytes = some (level, rest)) : bytes.length = rest.length + alp.toNat := by
  unfold parseAmbient at h
  split at h
  next halp =>
    split at h
    next =>
      split at h
      next => cases h
      next => cases h; simp [halp]
    next => cases h
  next halp => cases h; simp [halp]

/-- A frame is in the window up to its CRC byte, and has a payload of 2 bytes or more (45_full_frame.md R236, R250). -/
theorem length_of_parseFrame {p : Params} {bytes : List Byte} {d : Desc} {n : Nat}
    (h : parseFrame p bytes = some (d, n)) : 2 ≤ n ∧ n + 1 ≤ bytes.length := by
  simp only [parseFrame, Option.bind_eq_some_iff] at h
  obtain ⟨⟨idp, idh, b1⟩, hhead, ⟨id0, id1, b2⟩, hid, ⟨tpp, temp, pl, b3⟩, htp, ⟨alp, occ, b4⟩, hflags,
    ⟨ambl, b5⟩, hambl, c, hcrc, h⟩ := h
  have h1 := length_of_parseHeader hhead
  have h2 := length_of_parseId hid
  have h3 := length_of_parseTp htp
  have h4 := length_of_parseFlags hflags
  have h5 := length_of_parseAmbient hambl
  have h6 : 1 ≤ b5.length := by cases b5 <;> simp at hcrc ⊢
  simp only at h h2 h3 h4 h5
  split at h
  next =>
    cases h
    unfold frameLen
    omega
  next => cases h

/-- A frame command that succeeds finds a good window and moves `POS` by 3 or more, to at most `LIM`. -/
theorem CommandEffect.pos_of_ok {s t : State} {o : Opcode} {fin : Bool} (h : CommandEffect s o (.ok fin) t)
    (ho : isFrameCommand o = true) :
    s.pos.toNat + 3 ≤ t.pos.toNat ∧ t.pos.toNat ≤ s.lim.toNat ∧ s.lim.toNat ≤ 64 := by
  have moved {n : Nat} (hw : s.badWindow = false) (h3 : 3 ≤ n) (hn : n ≤ s.room) :
      s.pos.toNat + 3 ≤ (BitVec.ofNat 8 (s.pos.toNat + n)).toNat ∧
        (BitVec.ofNat 8 (s.pos.toNat + n)).toNat ≤ s.lim.toNat ∧ s.lim.toNat ≤ 64 := by
    obtain ⟨hle, hlim⟩ := badWindow_eq_false.1 hw
    rw [State.room] at hn
    rw [BitVec.toNat_ofNat, Nat.mod_eq_of_lt (by omega)]
    omega
  cases h with
  | mtpEnc hw hroom => exact moved hw (le_refl 3) hroom
  | mtpDec hw hparse => exact moved hw (le_refl 3) (window_length s ▸ length_of_parseTrailer hparse)
  | fsmEnc hsec hw hd hroom => exact moved hw (by unfold frameLen; omega) (by omega)
  | fsmDec hw hparse =>
    obtain ⟨h2, hn⟩ := length_of_parseFrame hparse
    exact moved hw (by omega) (window_length s ▸ hn)
  | _ => simp [isFrameCommand] at ho

/-- A failure leaves `POS`. -/
theorem CommandEffect.pos_of_error {s t : State} {o : Opcode} {e : FailCode} (h : CommandEffect s o (.error e) t) :
    t.pos = s.pos := by
  cases h <;> rfl

/-- Settles O43, by the result of the command. -/
theorem posMovesOnlyOnSuccessAndNeverWraps : Obligations.PosMovesOnlyOnSuccessAndNeverWraps := by
  intro o s t ho h
  obtain ⟨r, u, hu, rfl⟩ := effect_of_exec h
  cases r with
  | error e => exact ⟨fun _ => hu.pos_of_error, fun hok => by simp at hok⟩
  | ok fin => exact ⟨fun hfail => by simp at hfail, fun _ => hu.pos_of_ok ho⟩

/-- Settles O1: with `LIM` 0 there is no room for the 3 bytes a frame command needs. -/
theorem resetPutsEveryRegisterToZero : Obligations.ResetPutsEveryRegisterToZero := by
  refine ⟨fun r => by cases r <;> rfl, fun s hlim o ho => ?_⟩
  obtain ⟨r, u, hu⟩ := commandEffect_total { s with cmd := encodeOpcode o } o
  refine ⟨_, exec_of_effect hu, ?_⟩
  cases r with
  | error e => exact writeStatus_ok_of_error e u
  | ok fin =>
    obtain ⟨h3, hle, -⟩ := hu.pos_of_ok ho
    have h0 : s.lim.toNat = 0 := by simp [hlim]
    simp only at h3 hle
    omega

/-! ## What is written to the buffer -/

theorem frameBytes_length (p : Params) (occTx : Bool) (d : Desc) :
    (frameBytes p occTx d).length = frameLen d.idp d.tpp d.alp + 2 := by
  cases hidp : d.idp <;> cases htpp : d.tpp <;> cases halp : d.alp <;>
    simp [frameBytes, payload, frameLen, hidp, htpp, halp]

theorem bufWriteList_resets (off : Nat) (vs : List Byte) (s : State) :
    (bufWriteList off vs s).resets = s.resets := by
  rw [bufWriteList_eq]

/-- A command leaves the buffer, or writes one run of bytes that begins at `POS` and ends within a good window. -/
theorem CommandEffect.buf_cases {s t : State} {o : Opcode} {r : Except FailCode Bool} (h : CommandEffect s o r t) :
    t.buf = s.buf ∨
    ∃ vs, t.buf = (bufWriteList s.pos.toNat vs s).buf ∧ s.pos.toNat + vs.length ≤ s.lim.toNat ∧
      s.lim.toNat ≤ 64 := by
  cases h with
  | mtpEnc hw hroom =>
    obtain ⟨hle, hlim⟩ := badWindow_eq_false.1 hw
    rw [State.room] at hroom
    exact .inr ⟨_, rfl, by simp only [trailerBytes, List.length_cons, List.length_nil]; omega, hlim⟩
  | fsmEnc hsec hw hd hroom =>
    obtain ⟨hle, hlim⟩ := badWindow_eq_false.1 hw
    rw [State.room] at hroom
    exact .inr ⟨_, rfl, by rw [frameBytes_length]; omega, hlim⟩
  | _ => exact .inl rfl

/-- What a decode makes of its window does not depend on the rest of the buffer. -/
theorem CommandEffect.congr_window {s t : State} {o : Opcode} {r : Except FailCode Bool} {buf' : List Host.Cell}
    (h : CommandEffect s o r t) (ho : o = .mtpDec ∨ o = .fsmDec)
    (hwin : State.window { s with buf := buf' } = s.window) :
    CommandEffect { s with buf := buf' } o r { t with buf := buf' } := by
  cases h with
  | mtpDec hw hparse => exact .mtpDec hw (hwin ▸ hparse)
  | mtpDecInval hw => exact .mtpDecInval hw
  | mtpDecWire hw hparse => exact .mtpDecWire hw (hwin ▸ hparse)
  | fsmDec hw hparse => exact .fsmDec hw (hwin ▸ hparse)
  | fsmDecInval hw => exact .fsmDecInval hw
  | fsmDecWire hw hparse => exact .fsmDecWire hw (hwin ▸ hparse)
  | _ => simp at ho

/-- Buffers that agree inside the window have the same window. -/
theorem window_congr {s : State} {buf' : List Host.Cell}
    (h : ∀ off, s.pos.toNat ≤ off → off < s.lim.toNat → bufRead { s with buf := buf' } off = bufRead s off) :
    State.window { s with buf := buf' } = s.window := by
  refine List.map_congr_left fun off hoff => ?_
  simp only [State.room, List.mem_range'_1] at hoff
  exact h off (by omega) (by omega)

/-- Settles O44: the only runs written are within the window, and a decode sees the window alone. -/
theorem frameCommandsStayInTheWindow : Obligations.FrameCommandsStayInTheWindow := by
  refine ⟨fun o s t h off hoff => ?_, fun o s t buf' ho hagree h => ?_⟩
  · obtain ⟨r, u, hu, rfl⟩ := effect_of_exec h
    obtain hbuf | ⟨vs, hbuf, hlen, -⟩ := hu.buf_cases
    · exact sameBuf_of_eq hbuf hu.resets_eq off
    · calc bufRead (writeStatus r u) off
        _ = bufRead (bufWriteList s.pos.toNat vs { s with cmd := encodeOpcode o }) off :=
          sameBuf_of_eq hbuf (hu.resets_eq.trans (bufWriteList_resets _ _ _).symm) off
        _ = bufRead s off := by
          simp only at hlen
          rw [bufRead_bufWriteList, dif_neg (by omega)]
          rfl
  · obtain ⟨r, u, hu, rfl⟩ := effect_of_exec h
    have hwin : State.window { s with cmd := encodeOpcode o, buf := buf' } = s.window := window_congr hagree
    have heff : CommandEffect { s with cmd := encodeOpcode o, buf := buf' } o r { u with buf := buf' } :=
      hu.congr_window ho hwin
    exact exec_of_effect (s := { s with buf := buf' }) heff

/-! ## The store under the history commands -/

theorem slot_lt {p : Params} (hp : p.wf) {set h : Nat} (hset : set < 5) (hh : h < 24) : slot p set h < 65536 := by
  obtain ⟨-, -, -, -, -, hbase⟩ := hp
  unfold slot
  omega

/-- The 120 bytes of the history are 120 addresses (42_history.md R178). -/
theorem slot_inj {p : Params} {set set' h h' : Nat} (hh : h < 24) (hh' : h' < 24)
    (heq : slot p set h = slot p set' h') : set = set' ∧ h = h' := by
  unfold slot at heq
  omega

theorem mem_regionAddresses_lt {p : Params} (hp : p.wf) : ∀ a ∈ regionAddresses p, a < 65536 := by
  obtain ⟨-, -, -, -, -, hbase⟩ := hp
  intro a ha
  simp only [regionAddresses, List.mem_range'_1] at ha
  omega

@[simp] theorem nvUpdate_params (addr : Nat) (v : Byte) (s : State) : (nvUpdate addr v s).1.params = s.params := by
  rw [nvUpdate_eq]

@[simp] theorem nvUpdate_hour (addr : Nat) (v : Byte) (s : State) : (nvUpdate addr v s).1.hour = s.hour := by
  rw [nvUpdate_eq]; rfl

@[simp] theorem drawBits_nv (s : State) : (drawBits s).2.nv = s.nv := by rw [drawBits_eq]

@[simp] theorem drawBits_params (s : State) : (drawBits s).2.params = s.params := by rw [drawBits_eq]

@[simp] theorem commitQuantity_params (set : Nat) (code : Byte) (s : State) :
    (commitQuantity set code s).params = s.params := by
  rw [commitQuantity_eq]

@[simp] theorem commitQuantity_hour (set : Nat) (code : Byte) (s : State) :
    (commitQuantity set code s).hour = s.hour := by
  rw [commitQuantity_eq]; rfl

theorem committed_params (s : State) : (committed s).params = s.params := by rw [committed_eq]

theorem commitQuantity_wf {s : State} (hs : Memory.wf 65536 (some byteFF) s.nv) (hp : s.params.wf)
    (hhour : s.hour < 24) {set : Nat} (hset : set + 1 < 5) (code : Byte) :
    Memory.wf 65536 (some byteFF) (commitQuantity set code s).nv := by
  have hlast := nvUpdate_wf hs (slot_lt hp (show set < 5 by omega) hhour) code
  obtain ⟨-, h⟩ | ⟨-, h⟩ := commitQuantity_cases set code s
  · rw [h]
    exact nvUpdate_wf hlast (slot_lt hp hset hhour) _
  · rw [h]
    exact nvUpdate_wf (by rwa [drawBits_nv]) (slot_lt hp hset hhour) _

theorem committed_wf {s : State} (hs : Memory.wf 65536 (some byteFF) s.nv) (hp : s.params.wf) (hhour : s.hour < 24) :
    Memory.wf 65536 (some byteFF) (committed s).nv := by
  have htemp := commitQuantity_wf hs hp hhour (show 0 + 1 < 5 by decide)
    (BitVec.ofNat 8 (compress s.params s.temperature))
  have hlight := commitQuantity_wf htemp (by simpa using hp) (by simpa using hhour) (show 2 + 1 < 5 by decide)
    (alclamp s.b)
  unfold committed commitBitmap
  refine nvUpdate_wf hlight (slot_lt ?_ (by decide) ?_) _
  · simpa using hp
  · simpa using hhour

/-! ## The invariant -/

/-- A run of the buffer that a command writes ends within it. -/
theorem CommandEffect.buf_wf {s t : State} {o : Opcode} {r : Except FailCode Bool} (h : CommandEffect s o r t)
    (hs : Memory.wf bufSize none s.buf) : Memory.wf bufSize none t.buf := by
  obtain hbuf | ⟨vs, hbuf, hlen, hlim⟩ := h.buf_cases
  · rwa [hbuf]
  · rw [hbuf]
    exact bufWriteList_wf hs (le_trans hlen hlim)

/-- Every store address a command uses is in the statistics region, and so in the store. -/
theorem CommandEffect.nv_wf {s t : State} {o : Opcode} {r : Except FailCode Bool} (h : CommandEffect s o r t)
    (hs : Memory.wf 65536 (some byteFF) s.nv) (hp : s.params.wf) : Memory.wf 65536 (some byteFF) t.nv := by
  cases h with
  | stCommit hhour =>
    dsimp only
    exact committed_wf hs hp hhour
  | @stZap n fin v hloop =>
    have hwf := zapLoop_wf (budget := s.budget) (n := 0) hs (mem_regionAddresses_lt hp)
    rwa [hloop] at hwf
  | _ => exact hs

/-- A command keeps the invariant. -/
theorem command_keeps_inv {o : Opcode} {s t : State} (hs : Inv s) (h : exec o.instr s = .next t) : Inv t := by
  obtain ⟨hbuf, hnv, hp, -⟩ := hs
  obtain ⟨r, u, hu, rfl⟩ := effect_of_exec h
  exact ⟨hu.buf_wf hbuf, hu.nv_wf hnv hp, hu.params_eq ▸ hp, statusOf_legal r⟩

/-- The four kinds of instruction: a command, a frame byte, a bus write, a bus read. -/
theorem instr_cases (i : Instr) :
    (∃ o : Opcode, i = o.instr) ∨ (∃ (x : WireByte) (off : BitVec 6), i = x.instr off) ∨
    (∃ addr v, i = .scriptWr addr v) ∨ ∃ addr, i = .scriptRd addr := by
  cases i with
  | nop => exact .inl ⟨.nop, rfl⟩
  | crc7Seed => exact .inl ⟨.crc7Seed, rfl⟩
  | crc7Upd => exact .inl ⟨.crc7Upd, rfl⟩
  | mtpEnc => exact .inl ⟨.mtpEnc, rfl⟩
  | mtpDec => exact .inl ⟨.mtpDec, rfl⟩
  | fsmEnc => exact .inl ⟨.fsmEnc, rfl⟩
  | fsmDec => exact .inl ⟨.fsmDec, rfl⟩
  | tcCmp => exact .inl ⟨.tcCmp, rfl⟩
  | tcExp => exact .inl ⟨.tcExp, rfl⟩
  | stSmooth => exact .inl ⟨.stSmooth, rfl⟩
  | stWarmsh => exact .inl ⟨.stWarmsh, rfl⟩
  | stCommit => exact .inl ⟨.stCommit, rfl⟩
  | stGet => exact .inl ⟨.stGet, rfl⟩
  | stZap => exact .inl ⟨.stZap, rfl⟩
  | reserved op => exact .inl ⟨.reserved op, rfl⟩
  | wireFullHeader off idp idh sec => exact .inr (.inl ⟨.fullHeader idp idh sec, off, rfl⟩)
  | wireIdByte off id => exact .inr (.inl ⟨.idByte id, off, rfl⟩)
  | wireTpByte0 off pl lo => exact .inr (.inl ⟨.tpByte0 pl lo, off, rfl⟩)
  | wireTpByte1 off hi => exact .inr (.inl ⟨.tpByte1 hi, off, rfl⟩)
  | wireFlags off alp occ => exact .inr (.inl ⟨.flags alp occ, off, rfl⟩)
  | wireAmbientLight off level => exact .inr (.inl ⟨.ambientLight level, off, rfl⟩)
  | wireCrc off c => exact .inr (.inl ⟨.crc c, off, rfl⟩)
  | wireTerminator off => exact .inr (.inl ⟨.terminator, off, rfl⟩)
  | scriptWr addr v => exact .inr (.inr (.inl ⟨addr, v, rfl⟩))
  | scriptRd addr => exact .inr (.inr (.inr ⟨addr, rfl⟩))

/-- What an instruction can do: a command, one buffer byte written, one register other than `CMD` written, a value
read, or nothing. -/
theorem exec_cases {i : Instr} {s t : State} (h : exec i s = .next t) :
    (∃ o : Opcode, exec o.instr s = .next t) ∨
    (∃ off v, off < bufSize ∧ t = bufWrite off v s) ∨
    (∃ r v, t = writeReg r v s) ∨
    (∃ v, t = { s with busData := v }) ∨
    t = s := by
  obtain ⟨o, rfl⟩ | ⟨x, off, rfl⟩ | ⟨addr, v, rfl⟩ | ⟨addr, rfl⟩ := instr_cases i
  · exact .inl ⟨o, h⟩
  · exact .inr (.inl ⟨_, _, off.isLt, Host.Outcome.next.inj (h.symm.trans (exec_wire x off s))⟩)
  · obtain ⟨-, hcmd⟩ | ⟨r, -, ht⟩ | ⟨off, hoff, ht⟩ | ht := exec_scriptWr_cases h
    · exact .inl ⟨_, hcmd⟩
    · exact .inr (.inr (.inl ⟨r, v, ht⟩))
    · exact .inr (.inl ⟨off, _, hoff, ht⟩)
    · exact .inr (.inr (.inr (.inr ht)))
  · exact .inr (.inr (.inr (.inl ⟨_, (Host.Outcome.next.inj h).symm⟩)))

/-- Every instruction keeps the invariant. -/
theorem exec_keeps_inv {i : Instr} {s t : State} (hs : Inv s) (h : exec i s = .next t) : Inv t := by
  obtain ⟨o, ho⟩ | ⟨off, v, hoff, rfl⟩ | ⟨r, v, rfl⟩ | ⟨v, rfl⟩ | rfl := exec_cases h
  · exact command_keeps_inv hs ho
  · obtain ⟨hbuf, hrest⟩ := hs
    exact ⟨Memory.wf_write hbuf hoff, hrest⟩
  · obtain ⟨hstatus, hbuf, hnv, hparams⟩ := writeReg_frame (r := r) (v := v) (s := s)
    unfold Machine.Inv
    rwa [hstatus, hbuf, hnv, hparams]
  · exact hs
  · exact hs

/-- A write by the store's other user keeps the invariant: its address is one of the store's (20_memory.md R82). -/
theorem nvWrite_keeps_inv {s : State} (hs : Inv s) (addr : BitVec 16) (v : Byte) : Inv (nvWrite addr.toNat v s) := by
  obtain ⟨hbuf, hnv, hrest⟩ := hs
  exact ⟨hbuf, nvWrite_wf hnv addr.isLt v, hrest⟩

/-- A reset keeps the store and the parameters, and empties the rest (70_reset_and_hazards.md R300). -/
theorem resetBlock_keeps_inv {s : State} (hs : Inv s) : Inv (resetBlock s) := by
  obtain ⟨-, hnv, hp, -⟩ := hs
  exact ⟨Memory.wf_reset.1, hnv, hp, List.mem_cons_self⟩

/-- Settles O23: every kind of event keeps the invariant, of which taking an event off the list is no part. -/
theorem everyStepKeepsTheStateGood : Obligations.EveryStepKeepsTheStateGood := by
  intro s t hs h
  unfold step at h
  split at h
  next => exact Host.Outcome.next.inj h ▸ hs
  next l rest hpending =>
    split at h
    next i hi => exact exec_keeps_inv (s := { s with pending := rest }) hs h
    next => cases h
  next addr v rest hpending =>
    exact Host.Outcome.next.inj h ▸ nvWrite_keeps_inv (s := { s with pending := rest }) hs addr v
  next rest hpending => exact Host.Outcome.next.inj h ▸ resetBlock_keeps_inv (s := { s with pending := rest }) hs

/-! ## The history bytes (10_state.md R51, 30_encoding.md R125) -/

/-- A byte set `set` of the history may hold: unset, or a compander code in sets 0 and 1, a 7-bit bitmap in set 4;
sets 2 and 3 may hold any byte. -/
def LegalIn (p : Params) (set : Nat) (v : Byte) : Prop :=
  v = byteFF ∨ ((set < 2 → v.toNat ≤ ceilAfter p) ∧ (set = 4 → v.getLsbD 7 = false))

theorem legalIn_of_any {p : Params} {set : Nat} (h2 : 2 ≤ set) (h4 : set ≠ 4) (v : Byte) : LegalIn p set v :=
  .inr ⟨fun h => absurd h (by omega), fun h => absurd h h4⟩

theorem legalIn_code {p : Params} {set : Nat} {v : Byte} (h2 : set < 2) (hv : v.toNat ≤ ceilAfter p) : LegalIn p set v :=
  .inr ⟨fun _ => hv, fun h => absurd h (by omega)⟩

theorem historyLegal_iff {s : State} :
    HistoryLegal s ↔ ∀ h < 24, ∀ set < 5, LegalIn s.params set (nvRead s (slot s.params set h)) := by
  constructor
  · intro hl h hh set hset
    obtain ⟨hcodes, hmap⟩ := hl h hh
    by_cases h2 : set < 2
    · exact (hcodes set h2).imp_right fun hv => ⟨fun _ => hv, fun h4 => absurd h4 (by omega)⟩
    · by_cases h4 : set = 4
      · subst h4
        exact hmap.imp_right fun hv => ⟨fun h => absurd h h2, fun _ => hv⟩
      · exact legalIn_of_any (by omega) h4 _
  · intro hl h hh
    exact ⟨fun set h2 => (hl h hh set (by omega)).imp_right fun hv => hv.1 h2,
      (hl h hh 4 (by decide)).imp_right fun hv => hv.2 rfl⟩

theorem historyLegal_congr {s t : State} (hnv : t.nv = s.nv) (hp : t.params = s.params) (hl : HistoryLegal s) :
    HistoryLegal t := by
  rw [historyLegal_iff] at hl ⊢
  simpa only [hp, sameNv_of_eq hnv _] using hl

/-- Unsetting bytes keeps the history legal. -/
theorem historyLegal_of_unset {s t : State} (hp : t.params = s.params)
    (hread : ∀ a, nvRead t a = byteFF ∨ nvRead t a = nvRead s a) (hl : HistoryLegal s) : HistoryLegal t := by
  rw [historyLegal_iff] at hl ⊢
  intro h hh set hset
  obtain hunset | hsame := hread (slot t.params set h)
  · exact .inl hunset
  · rw [hsame, hp]
    exact hl h hh set hset

/-- Writing a byte its set may hold keeps the history legal: every other slot is another address. -/
theorem historyLegal_nvUpdate {p : Params} {s : State} (hp : s.params = p)
    (hs : Memory.wf 65536 (some byteFF) s.nv) (hl : HistoryLegal s) {set h : Nat} (hh : h < 24) {v : Byte}
    (hv : LegalIn p set v) : HistoryLegal (nvUpdate (slot p set h) v s).1 := by
  subst hp
  rw [historyLegal_iff] at hl ⊢
  intro h' hh' set' hset'
  rw [nvUpdate_params, nvRead_nvUpdate hs]
  split
  next heq =>
    obtain ⟨rfl, rfl⟩ := slot_inj hh' hh heq
    exact hv
  next => exact hl h' hh' set' hset'

/-! ### The values a commit writes -/

theorem ceilAfter_le {p : Params} (hp : p.wf) : ceilAfter p ≤ 254 := by
  obtain ⟨-, -, -, ⟨hlt, hhigh, hband⟩, -, -⟩ := hp
  simp only [ceilAfter, highAfter, lowAfter, low, high, ceil16, Nat.shiftRight_eq_div_pow]
  omega

/-- No temperature compresses to more than the code of the ceiling (41_compander.md R153 (d)). -/
theorem compress_le_ceilAfter {p : Params} (hp : p.wf) (t : Int) : compress p t ≤ ceilAfter p := by
  obtain ⟨-, -, -, ⟨hlt, hhigh, hband⟩, -, -⟩ := hp
  simp only [compress, ceilAfter, highAfter, lowAfter, low, high, ceil16, Nat.shiftRight_eq_div_pow]
  split_ifs <;> omega

/-- A smoothed value does not exceed a bound of the two it comes from (42_history.md R173 (a)). -/
theorem smooth_le {p : Params} {old new r m : Nat} (hold : old ≤ m) (hnew : new ≤ m) (hr : r < 2 ^ p.smoothShift) :
    smooth p old new r ≤ m := by
  have hpos : 0 < 2 ^ p.smoothShift := Nat.two_pow_pos _
  have hsum : old * (2 ^ p.smoothShift - 1) + new + r < (m + 1) * 2 ^ p.smoothShift := by
    calc old * (2 ^ p.smoothShift - 1) + new + r
      _ < m * (2 ^ p.smoothShift - 1) + m + 2 ^ p.smoothShift :=
        Nat.add_lt_add_of_le_of_lt (Nat.add_le_add (Nat.mul_le_mul_right _ hold) hnew) hr
      _ = (m + 1) * 2 ^ p.smoothShift := by
        rw [← Nat.mul_succ, Nat.succ_eq_add_one, Nat.sub_add_cancel hpos, Nat.succ_mul]
  rw [smooth, Nat.shiftRight_eq_div_pow]
  exact Nat.lt_succ_iff.1 ((Nat.div_lt_iff_lt_mul hpos).2 hsum)

/-- A number up to the ceiling's code, as a byte, is a code. -/
theorem legalIn_ofNat {p : Params} (hp : p.wf) {set n : Nat} (h2 : set < 2) (hn : n ≤ ceilAfter p) :
    LegalIn p set (BitVec.ofNat 8 n) := by
  have h254 := ceilAfter_le hp
  refine legalIn_code h2 ?_
  rwa [BitVec.toNat_ofNat, Nat.mod_eq_of_lt (by omega)]

/-- Bit 7 of a shifted bitmap is clear (42_history.md R175). -/
theorem warmshift_getLsbD_seven (old : Byte) (w : Bool) : (warmshift old w).getLsbD 7 = false := by
  unfold warmshift
  split
  · cases w <;> rfl
  · cases w <;> simp

theorem drawBits_lt (s : State) : (drawBits s).1 < 2 ^ s.params.smoothShift :=
  Nat.mod_lt _ (Nat.two_pow_pos _)

/-! ### The commands that write the history -/

/-- A commit of one quantity keeps the history legal, if the code is legal in both its sets and smoothing stays so. -/
theorem commitQuantity_historyLegal {s : State} (hs : Memory.wf 65536 (some byteFF) s.nv) (hp : s.params.wf)
    (hl : HistoryLegal s) (hhour : s.hour < 24) {set : Nat} (hset : set + 1 < 5) {code : Byte}
    (hcode : ∀ set' ∈ [set, set + 1], LegalIn s.params set' code)
    (hfold : ∀ (old : Byte) (r : Nat), LegalIn s.params (set + 1) old → old ≠ byteFF → r < 2 ^ s.params.smoothShift →
      LegalIn s.params (set + 1) (BitVec.ofNat 8 (smooth s.params old.toNat code.toNat r))) :
    HistoryLegal (commitQuantity set code s) := by
  have hwf := nvUpdate_wf hs (slot_lt hp (show set < 5 by omega) hhour) code
  have hlast := historyLegal_nvUpdate rfl hs hl hhour (hcode set (by simp))
  obtain ⟨-, h⟩ | ⟨hold, h⟩ := commitQuantity_cases set code s
  · rw [h]
    exact historyLegal_nvUpdate (by simp) hwf hlast hhour (hcode (set + 1) (by simp))
  · have holdLegal := historyLegal_iff.1 hlast s.hour hhour (set + 1) hset
    have hr := drawBits_lt (nvUpdate (slot s.params set s.hour) code s).1
    rw [nvUpdate_params] at holdLegal hr
    rw [h]
    exact historyLegal_nvUpdate (by simp) (by rwa [drawBits_nv])
      (historyLegal_congr (drawBits_nv _) (drawBits_params _) hlast) hhour (hfold _ _ holdLegal hold hr)

/-- The temperature's part of a commit: its code, and the smoothing of two codes, is a code. -/
theorem commitTemperature_historyLegal {s : State} (hs : Memory.wf 65536 (some byteFF) s.nv) (hp : s.params.wf)
    (hl : HistoryLegal s) (hhour : s.hour < 24) :
    HistoryLegal (commitQuantity 0 (BitVec.ofNat 8 (compress s.params s.temperature)) s) := by
  have hcode := compress_le_ceilAfter hp s.temperature
  refine commitQuantity_historyLegal hs hp hl hhour (by decide) (fun set' hset' => ?_) fun old r hold hne hr => ?_
  · exact legalIn_ofNat hp (by simp at hset'; omega) hcode
  · obtain ⟨hcodeOld, -⟩ := hold.resolve_left hne
    refine legalIn_ofNat hp (by decide) (smooth_le (hcodeOld (by decide)) ?_ hr)
    exact le_trans (Nat.mod_le _ _) hcode

/-- `ST.COMMIT` keeps the history legal: temperature, ambient light (any byte), bitmap. -/
theorem committed_historyLegal {s : State} (hs : Memory.wf 65536 (some byteFF) s.nv) (hp : s.params.wf)
    (hl : HistoryLegal s) (hhour : s.hour < 24) : HistoryLegal (committed s) := by
  have htempWf := commitQuantity_wf hs hp hhour (show 0 + 1 < 5 by decide)
    (BitVec.ofNat 8 (compress s.params s.temperature))
  have htemp := commitTemperature_historyLegal hs hp hl hhour
  unfold committed
  generalize hu : commitQuantity 0 (BitVec.ofNat 8 (compress s.params s.temperature)) s = u at htempWf htemp ⊢
  have hup : u.params.wf := by rwa [← hu, commitQuantity_params]
  have huh : u.hour < 24 := by rwa [← hu, commitQuantity_hour]
  have hlightWf := commitQuantity_wf htempWf hup huh (show 2 + 1 < 5 by decide) (alclamp s.b)
  have hlight : HistoryLegal (commitQuantity 2 (alclamp s.b) u) :=
    commitQuantity_historyLegal htempWf hup htemp huh (by decide)
      (fun set' hset' => by simp at hset'; exact legalIn_of_any (by omega) (by omega) _)
      fun _ _ _ _ _ => legalIn_of_any (by decide) (by decide) _
  exact historyLegal_nvUpdate rfl hlightWf hlight (by rwa [commitQuantity_hour])
    (.inr ⟨fun h => absurd h (by decide), fun _ => warmshift_getLsbD_seven _ _⟩)

/-- The loop of `ST.ZAP` only unsets bytes. -/
theorem nvRead_zapLoop {budget : Nat} {as : List Nat} {n : Nat} {s : State}
    (hs : Memory.wf 65536 (some byteFF) s.nv) (ha : ∀ a ∈ as, a < 65536) (a : Nat) :
    nvRead (zapLoop budget as n s).1 a = byteFF ∨ nvRead (zapLoop budget as n s).1 a = nvRead s a := by
  induction as generalizing n s with
  | nil => exact .inr rfl
  | cons x as ih =>
    have hrest : ∀ y ∈ as, y < 65536 := fun y hy => ha y (by simp [hy])
    unfold zapLoop
    split
    next => exact ih hs hrest
    next =>
      split
      next => exact .inr rfl
      next =>
        obtain h | h := ih (n := n + 1) (nvErase_wf hs (ha x (by simp))) hrest
        · exact .inl h
        · rw [h, nvRead_nvErase hs]
          split
          next => exact .inl rfl
          next => exact .inr rfl

/-- A command keeps the history legal. -/
theorem CommandEffect.historyLegal {s t : State} {o : Opcode} {r : Except FailCode Bool} (h : CommandEffect s o r t)
    (hs : Memory.wf 65536 (some byteFF) s.nv) (hp : s.params.wf) (hl : HistoryLegal s) : HistoryLegal t := by
  cases h with
  | stCommit hhour =>
    have hparams := committed_params s
    have hcommitted := committed_historyLegal hs hp hl hhour
    generalize committed s = c at hparams hcommitted ⊢
    exact historyLegal_congr (s := c) rfl hparams.symm hcommitted
  | @stZap n fin v hloop =>
    have hread := nvRead_zapLoop (budget := s.budget) (n := 0) hs (mem_regionAddresses_lt hp)
    simp only [hloop] at hread
    exact historyLegal_of_unset (s := s) rfl hread hl
  | _ => exact historyLegal_congr rfl rfl hl

/-- Settles O57: only `ST.COMMIT` and `ST.ZAP` touch the store, and what they write is legal where they write it. -/
theorem instructionsKeepTheHistoryLegal : Obligations.InstructionsKeepTheHistoryLegal := by
  intro i s t hs hl h
  obtain ⟨o, ho⟩ | ⟨off, v, -, rfl⟩ | ⟨r, v, rfl⟩ | ⟨v, rfl⟩ | rfl := exec_cases h
  · obtain ⟨-, hnv, hp, -⟩ := hs
    obtain ⟨r, u, hu, rfl⟩ := effect_of_exec ho
    exact historyLegal_congr rfl rfl (hu.historyLegal hnv hp hl)
  · exact historyLegal_congr rfl rfl hl
  · obtain ⟨-, -, hnv, hparams⟩ := writeReg_frame (r := r) (v := v) (s := s)
    exact historyLegal_congr hnv hparams hl
  · exact historyLegal_congr rfl rfl hl
  · exact hl

end Sys2Proof.Proofs

/-! PROOFS. The host bus and the event stream, access by access, and the commands that can be run again (20_memory.md). -/

namespace Sys2Proof.Proofs

open Sys2Proof.Machine

/-! ## The bus map (20_memory.md R71) -/

@[simp] theorem busTarget_regAddress (r : Reg) : busTarget (regAddress r) = .register r := by
  cases r <;> rfl

/-- Above the last register there are the buffer's 64 addresses, and every other address is reserved. -/
theorem busTarget_of_ge {addr : Byte} (h : 0x0F ≤ addr.toNat) :
    busTarget addr =
      if 0x40 ≤ addr.toNat ∧ addr.toNat < 0x80 then .buffer (addr.toNat - 0x40) else .reserved := by
  unfold busTarget
  split
  case h_16 => rfl
  all_goals omega

theorem busTarget_of_buffer {addr : Byte} (hlo : 0x40 ≤ addr.toNat) (hhi : addr.toNat ≤ 0x7F) :
    busTarget addr = .buffer (addr.toNat - 0x40) := by
  rw [busTarget_of_ge (by omega), if_pos ⟨hlo, by omega⟩]

theorem busTarget_of_reserved {addr : Byte}
    (h : (0x0F ≤ addr.toNat ∧ addr.toNat ≤ 0x3F) ∨ 0x80 ≤ addr.toNat) : busTarget addr = .reserved := by
  rw [busTarget_of_ge (by omega), if_neg (by omega)]

/-! ## Registers as the host sees them (20_memory.md R72) -/

/-- A register is read zero-extended: no register is wider than the bus. -/
theorem toNat_readReg (r : Reg) (s : State) : (readReg r s).toNat = regValue r s := by
  cases r with
  | fid | ftemp | a | q => rfl
  | _ => exact BitVec.toNat_setWidth_of_le (by decide)

/-- A writable register holds the low bits of the data, as many as it is wide. -/
theorem regValue_writeReg_same {r : Reg} (hstatus : r ≠ .status) (hq : r ≠ .q) (v : BusWord) (s : State) :
    regValue r (writeReg r v s) = v.toNat % 2 ^ regWidth r := by
  cases r with
  | status => exact absurd rfl hstatus
  | q => exact absurd rfl hq
  | fid | ftemp | a => exact (Nat.mod_eq_of_lt v.isLt).symm
  | _ => exact BitVec.toNat_setWidth _ v

theorem regValue_writeReg_of_ne {r r' : Reg} (hne : r' ≠ r) (v : BusWord) (s : State) :
    regValue r' (writeReg r v s) = regValue r' s := by
  cases r with
  | status | q => rfl
  | _ => cases r' <;> simp [writeReg, regValue] at hne ⊢

/-- A register write reaches nothing outside the block and takes no sample. -/
theorem writeReg_sameOutside_noDraw (r : Reg) (v : BusWord) (s : State) :
    SameOutside s (writeReg r v s) ∧ NoDraw s (writeReg r v s) := by
  cases r <;> exact ⟨⟨rfl, rfl, rfl, rfl⟩, rfl, rfl⟩

theorem writeReg_sameBuf (r : Reg) (v : BusWord) (s : State) : SameBuf s (writeReg r v s) := by
  obtain ⟨-, hbuf, -⟩ := writeReg_frame (r := r) (v := v) (s := s)
  obtain ⟨⟨-, -, hresets, -⟩, -⟩ := writeReg_sameOutside_noDraw r v s
  exact sameBuf_of_eq hbuf hresets

theorem writeReg_sameNv (r : Reg) (v : BusWord) (s : State) : SameNv s (writeReg r v s) := by
  obtain ⟨-, -, hnv, -⟩ := writeReg_frame (r := r) (v := v) (s := s)
  exact sameNv_of_eq hnv

/-! ## Host writes, by what the address reaches -/

theorem exec_scriptWr_register {addr : Byte} {r : Reg} (hb : busTarget addr = .register r) (hr : r ≠ .cmd)
    (v : BusWord) (s : State) : exec (.scriptWr addr v) s = .next (writeReg r v s) := by
  simp only [exec, execScriptWr, hb]

theorem exec_scriptWr_buffer {addr : Byte} {off : Nat} (hb : busTarget addr = .buffer off)
    (v : BusWord) (s : State) : exec (.scriptWr addr v) s = .next (bufWrite off (v.setWidth 8) s) := by
  simp only [exec, execScriptWr, hb]

theorem exec_scriptWr_reserved {addr : Byte} (hb : busTarget addr = .reserved) (v : BusWord) (s : State) :
    exec (.scriptWr addr v) s = .next s := by
  simp only [exec, execScriptWr, hb]

/-- Settles O9: such a write is `writeReg`, which reaches its own register alone. -/
theorem registerWriteStoresLowBits : Obligations.RegisterWriteStoresLowBits := by
  intro r v s hcmd hstatus hq
  obtain ⟨houtside, hdraw⟩ := writeReg_sameOutside_noDraw r v s
  exact ⟨_, exec_scriptWr_register (busTarget_regAddress r) hcmd v s, regValue_writeReg_same hstatus hq v s,
    fun r' hne => regValue_writeReg_of_ne hne v s, writeReg_sameBuf r v s, writeReg_sameNv r v s, houtside, hdraw⟩

/-- Settles O10: `STATUS` and `Q` are registers that `writeReg` leaves as they are; the other addresses reach nothing. -/
theorem ignoredWritesChangeNothing : Obligations.IgnoredWritesChangeNothing := by
  intro addr v s h
  obtain rfl | rfl | hreserved := h
  · exact exec_scriptWr_register (busTarget_regAddress .status) (by decide) v s
  · exact exec_scriptWr_register (busTarget_regAddress .q) (by decide) v s
  · exact exec_scriptWr_reserved (busTarget_of_reserved hreserved) v s

/-- Settles O11: such a write is one `bufWrite`. -/
theorem bufferWriteStoresOneByte : Obligations.BufferWriteStoresOneByte := by
  intro addr v s hlo hhi
  exact ⟨_, exec_scriptWr_buffer (busTarget_of_buffer hlo hhi) v s, rfl, fun off => bufRead_bufWrite s _ off _⟩

/-! ## Host reads -/

theorem busRead_regAddress (r : Reg) (s : State) : busRead (regAddress r) s = readReg r s := by
  simp only [busRead, busTarget_regAddress]

theorem busRead_buffer {addr : Byte} {off : Nat} (hb : busTarget addr = .buffer off) (s : State) :
    busRead addr s = (bufRead s off).setWidth 16 := by
  simp only [busRead, hb]

theorem busRead_reserved {addr : Byte} (hb : busTarget addr = .reserved) (s : State) : busRead addr s = 0 := by
  simp only [busRead, hb]

/-- Settles O12, by what the address reaches. -/
theorem readsReturnAndChangeNothing : Obligations.ReadsReturnAndChangeNothing := by
  intro addr s
  refine ⟨busRead addr s, rfl, fun r hr => ?_, fun ⟨hlo, hhi⟩ => ?_, fun hreserved => ?_⟩
  · rw [hr, busRead_regAddress, toNat_readReg]
  · rw [busRead_buffer (busTarget_of_buffer hlo hhi)]
    exact BitVec.toNat_setWidth_of_le (by decide)
  · exact busRead_reserved (busTarget_of_reserved hreserved) s

/-! ## A step, by the oldest pending event (logs 1, 4, 10) -/

theorem step_idle {s : State} (h : s.pending = []) : step s = .next s := by
  simp only [step, h]

theorem step_line_ok {s : State} {l : HostLine} {rest : List HostEvent} {i : Instr}
    (h : s.pending = .line l :: rest) (hi : decode l = .ok i) : step s = exec i { s with pending := rest } := by
  simp only [step, h, hi]

theorem step_line_error {s : State} {l : HostLine} {rest : List HostEvent} {e : DecodeError}
    (h : s.pending = .line l :: rest) (he : decode l = .error e) : step s = .refused (refusalOf e) := by
  simp only [step, h, he]

theorem step_storeWrite {s : State} {addr : BitVec 16} {v : Byte} {rest : List HostEvent}
    (h : s.pending = .storeWrite addr v :: rest) :
    step s = .next (nvWrite addr.toNat v { s with pending := rest }) := by
  simp only [step, h]

/-- Settles O3, by what the line decodes to. -/
theorem stepRunsTheDecodedLine : Obligations.StepRunsTheDecodedLine := by
  intro s l rest h
  exact ⟨fun i => step_line_ok h, step_line_error h, step_line_error h⟩

/-- Settles O4: the store of a good state is canonical, so the byte written is the byte read back. -/
theorem otherEventsDoOnlyWhatTheySay : Obligations.OtherEventsDoOnlyWhatTheySay := by
  refine ⟨fun s => step_idle, fun s addr v rest hs h => ?_⟩
  obtain ⟨-, hnv, -, -⟩ := hs
  exact ⟨_, step_storeWrite h, rfl, fun a => nvRead_nvWrite (s := { s with pending := rest }) hnv _ a v⟩

/-! ## A command run again (20_memory.md R85) -/

/-- The second run of a command starts from the state the first left: its opcode is in `CMD` already. -/
theorem exec_again {o : Opcode} {s u w : State} {r r' : Except FailCode Bool}
    (hu : CommandEffect { s with cmd := encodeOpcode o } o r u) (hw : CommandEffect (writeStatus r u) o r' w) :
    exec o.instr (writeStatus r u) = .next (writeStatus r' w) := by
  have hcmd : { writeStatus r u with cmd := encodeOpcode o } = writeStatus r u :=
    congrArg (fun c => { writeStatus r u with cmd := c }) hu.cmd_eq.symm
  exact exec_of_effect (hcmd.symm ▸ hw)

/-- The commands that read nothing they write: from the state a run has left, the same run leaves that state. -/
theorem CommandEffect.again {o : Opcode} {s u : State} {r : Except FailCode Bool} (h : CommandEffect s o r u)
    (ho : o ∈ [.nop, .crc7Seed, .tcCmp, .tcExp, .stWarmsh, .stGet]) :
    CommandEffect (writeStatus r u) o r (writeStatus r u) := by
  cases h with
  | nop => exact .nop
  | crc7Seed => exact .crc7Seed
  | tcCmp => exact .tcCmp
  | tcExp => exact .tcExp
  | stWarmsh => exact .stWarmsh
  | stGet hhour hset => exact .stGet hhour hset
  | stGetInval hbad => exact .stGetInval hbad
  | _ => simp at ho

/-- Over addresses that are all unset the erase loop does nothing and reaches the end, whatever the budget. -/
theorem zapLoop_of_unset {budget n : Nat} {as : List Nat} {s : State} (h : ∀ a ∈ as, nvRead s a = byteFF) :
    zapLoop budget as n s = (s, n, true) := by
  induction as with
  | nil => rfl
  | cons x as ih =>
    rw [zapLoop, if_pos (h x (by simp))]
    exact ih fun a ha => h a (by simp [ha])

/-- An erase loop that reached the end leaves every address it looked at unset. -/
theorem nvRead_zapLoop_of_fin {budget n : Nat} {as : List Nat} {s : State} (hs : Memory.wf 65536 (some byteFF) s.nv)
    (has : ∀ a ∈ as, a < 65536) (hfin : (zapLoop budget as n s).2.2 = true) :
    ∀ a ∈ as, nvRead (zapLoop budget as n s).1 a = byteFF := by
  induction as generalizing n s with
  | nil => simp
  | cons x as ih =>
    have hrest : ∀ a ∈ as, a < 65536 := fun a ha => has a (by simp [ha])
    unfold zapLoop at hfin ⊢
    split at hfin
    next hx =>
      rw [if_pos hx]
      refine List.forall_mem_cons.2 ⟨?_, ih hs hrest hfin⟩
      simpa only [hx, or_self] using nvRead_zapLoop hs hrest x
    next hx =>
      split at hfin
      next => cases hfin
      next hn =>
        rw [if_neg hx, if_neg hn]
        have herase := nvErase_wf hs (has x (by simp))
        refine List.forall_mem_cons.2 ⟨?_, ih herase hrest hfin⟩
        simpa only [nvRead_nvErase hs, if_true, or_self] using
          nvRead_zapLoop (budget := budget) (n := n + 1) herase hrest x

/-- After an `ST.ZAP` that finished, the whole history is unset (42_history.md R190). -/
theorem CommandEffect.history_unset_of_fin {s u : State} (h : CommandEffect s .stZap (.ok true) u)
    (hs : Memory.wf 65536 (some byteFF) s.nv) (hp : s.params.wf) :
    ∀ a ∈ regionAddresses u.params, nvRead u a = byteFF := by
  cases h with
  | @stZap n fin v hloop =>
    have hunset := nvRead_zapLoop_of_fin (budget := s.budget) (n := 0) hs (mem_regionAddresses_lt hp) (by rw [hloop])
    rwa [hloop] at hunset

/-- Settles O21: the six commands read nothing they write, and an `ST.ZAP` over an unset history erases nothing. -/
theorem idempotentCommandsChangeNothingTwice : Obligations.IdempotentCommandsChangeNothingTwice := by
  refine ⟨fun o s t ho h => ?_, fun s t hs h hfin => ?_⟩
  · obtain ⟨r, u, hu, rfl⟩ := effect_of_exec h
    have hagain := exec_again hu (hu.again ho)
    exact hagain
  · obtain ⟨-, hnv, hp, -⟩ := hs
    obtain ⟨r, u, hu, rfl⟩ := effect_of_exec (o := .stZap) h
    obtain rfl := (writeStatus_fin r u).1 hfin
    have hunset := hu.history_unset_of_fin hnv hp
    exact exec_again hu (.stZap (zapLoop_of_unset (s := writeStatus (.ok true) u) hunset))

end Sys2Proof.Proofs

/-! PROOFS. Decoder and encoder, and the lines of a host script (30_encoding.md). -/

namespace Sys2Proof.Proofs

open Sys2Proof.Machine

/-! ## Commands (30_encoding.md R101, R102) -/

/-- The ranges of R102 are what the opcode map of R101 leaves over. -/
theorem decodeOpcode_eq_reserved_iff (op : Byte) : decodeOpcode op = .reserved op ↔ isReservedOpcode op = true := by
  unfold decodeOpcode
  split
  case h_15 =>
    have hlt : op.toNat < 256 := op.isLt
    simp only [isReservedOpcode, reservedRanges, List.any_cons, List.any_nil, Bool.or_false, Bool.or_eq_true,
      Bool.and_eq_true, decide_eq_true_eq, true_iff]
    simp only [imp_false] at *
    omega
  all_goals
    rename_i hop
    simp [isReservedOpcode, reservedRanges, hop]

/-- Settles O6: what is not reserved is one of the fourteen opcodes of R101. -/
theorem reservedOpcodesAreTheRest : Obligations.ReservedOpcodesAreTheRest :=
  fun op => ⟨decodeOpcode_eq_reserved_iff op, encodeOpcode_decodeOpcode op⟩

theorem decodeOpcode_encodeOpcode {o : Opcode} (h : o.instr.wf = true) : decodeOpcode (encodeOpcode o) = o := by
  cases o with
  | reserved op => exact (decodeOpcode_eq_reserved_iff op).2 h
  | _ => rfl

/-- The opcode map answers a reserved opcode only for a value of R102. -/
theorem wf_decodeOpcode (op : Byte) : (decodeOpcode op).instr.wf = true := by
  cases h : decodeOpcode op with
  | reserved op' =>
    obtain rfl : op' = op := by
      have hop := encodeOpcode_decodeOpcode op
      rwa [h] at hop
    exact (decodeOpcode_eq_reserved_iff op').1 h
  | _ => rfl

theorem encode_opcode (o : Opcode) : encode o.instr = .command (encodeOpcode o) := by
  cases o <;> rfl

theorem decode_command {o : Opcode} (h : o.instr.wf = true) : decode (.command (encodeOpcode o)) = .ok o.instr := by
  rw [decode, decodeOpcode_encodeOpcode h]

/-! ## Script words (30_encoding.md R104) -/

/-- The three fields of a script word, taken out of it again. -/
theorem fields_append (top addr : Byte) (data : BusWord) :
    (top ++ addr ++ data).extractLsb' 24 8 = top ∧ (top ++ addr ++ data).extractLsb' 16 8 = addr ∧
      (top ++ addr ++ data).extractLsb' 0 16 = data := by
  have bit (i : Nat) : (top ++ addr ++ data).getLsbD i =
      if i < 16 then data.getLsbD i else if i - 16 < 8 then addr.getLsbD (i - 16) else top.getLsbD (i - 16 - 8) := by
    rw [BitVec.getLsbD_append, BitVec.getLsbD_append]
  refine ⟨?_, ?_, BitVec.extractLsb'_append_eq_right⟩
  · refine BitVec.eq_of_getLsbD_eq fun i hi => ?_
    rw [BitVec.getLsbD_extractLsb', bit, if_neg (by omega), if_neg (by omega)]
    simp [hi, show 24 + i - 16 - 8 = i by omega]
  · refine BitVec.eq_of_getLsbD_eq fun i hi => ?_
    rw [BitVec.getLsbD_extractLsb', bit, if_neg (by omega), if_pos (by omega)]
    simp [hi]

theorem append_fields (w : BitVec 32) : w.extractLsb' 24 8 ++ w.extractLsb' 16 8 ++ w.extractLsb' 0 16 = w := by
  rw [BitVec.extractLsb'_append_extractLsb'_eq_extractLsb' (by rfl),
    BitVec.extractLsb'_append_extractLsb'_eq_extractLsb' (by rfl)]
  exact BitVec.extractLsb'_eq_self

theorem decodeAccess_writeWord (addr : Byte) (data : BusWord) :
    decodeAccess (writeWord addr data) = some (.scriptWr addr data) := by
  obtain ⟨htop, haddr, hdata⟩ := fields_append 0x80#8 addr data
  rw [decodeAccess, writeWord, htop, haddr, hdata, if_pos rfl]

theorem decodeAccess_readWord (addr : Byte) : decodeAccess (readWord addr) = some (.scriptRd addr) := by
  obtain ⟨htop, haddr, hdata⟩ := fields_append 0x00#8 addr 0#16
  rw [decodeAccess, readWord, htop, haddr, hdata, if_neg (by decide), if_pos ⟨rfl, rfl⟩]

/-- A word has at most the one meaning, and no other word has it. -/
theorem encode_of_decodeAccess {w : BitVec 32} {i : Instr} (h : decodeAccess w = some i) :
    encode i = .access w ∧ i.wf = true := by
  have hw := append_fields w
  unfold decodeAccess at h
  split at h
  next htop =>
    obtain rfl := Option.some.inj h
    rw [htop] at hw
    exact ⟨congrArg HostLine.access hw, rfl⟩
  next =>
    split at h
    next hread =>
      obtain ⟨htop, hdata⟩ := hread
      obtain rfl := Option.some.inj h
      rw [htop, hdata] at hw
      exact ⟨congrArg HostLine.access hw, rfl⟩
    next => cases h

/-! ## Frame bytes (30_encoding.md R110 to R118) -/

theorem wireMatch_and_wireMask (cls : WireClass) : wireMatch cls &&& wireMask cls = wireMatch cls := by
  cases cls <;> rfl

theorem wireClassOf_wireFields (cls : WireClass) (b : Byte) : wireClassOf (wireFields cls b) = cls := by
  cases cls <;> rfl

theorem wireFields_encodeWire (x : WireByte) : wireFields (wireClassOf x) (encodeWire x) = x := by
  cases x with
  | fullHeader idp idh sec => cases idp <;> cases idh <;> cases sec <;> rfl
  | idByte id => exact congrArg WireByte.idByte BitVec.extractLsb'_append_eq_right
  | tpByte0 pl lo =>
    refine congrArg₂ WireByte.tpByte0 ?_ BitVec.extractLsb'_append_eq_right
    rw [encodeWire, BitVec.getLsbD_append, BitVec.getLsbD_append]
    simp
  | tpByte1 hi => exact congrArg WireByte.tpByte1 BitVec.extractLsb'_append_eq_right
  | flags alp occ =>
    refine congrArg₂ WireByte.flags ?_ BitVec.extractLsb'_append_eq_right
    rw [encodeWire, BitVec.getLsbD_append, BitVec.getLsbD_append, BitVec.getLsbD_append]
    simp
  | ambientLight level => rfl
  | crc c => exact congrArg WireByte.crc BitVec.extractLsb'_append_eq_right
  | terminator => rfl

/-- Bit by bit: the picture of a class takes its field bits from the byte and has the class's own bits elsewhere. -/
theorem encodeWire_wireFields (cls : WireClass) (b : Byte) :
    encodeWire (wireFields cls b) = b &&& ~~~wireMask cls ||| wireMatch cls := by
  cases cls with
  | ambientLight =>
    simp only [wireFields, encodeWire, wireMask, wireMatch]
    exact (BitVec.and_allOnes (x := b)).symm.trans BitVec.or_zero.symm
  | terminator => simp [wireFields, encodeWire, wireMask, wireMatch]
  | _ =>
    simp only [wireFields, encodeWire]
    refine BitVec.eq_of_getLsbD_eq fun i hi => ?_
    simp only [BitVec.getLsbD_append]
    interval_cases i <;> simp [wireMask, wireMatch]

theorem encodeWire_and_wireMask (x : WireByte) :
    encodeWire x &&& wireMask (wireClassOf x) = wireMatch (wireClassOf x) := by
  have hpicture := encodeWire_wireFields (wireClassOf x) (encodeWire x)
  rw [wireFields_encodeWire] at hpicture
  rw [hpicture, BitVec.and_or_distrib_right, wireMatch_and_wireMask, BitVec.and_assoc, BitVec.not_and_self]
  simp

theorem encodeWire_wireFields_of_isOfClass {cls : WireClass} {b : Byte} (h : isOfClass cls b = true) :
    encodeWire (wireFields cls b) = b := by
  have hmatch : b &&& wireMask cls = wireMatch cls := by simpa [isOfClass] using h
  rw [encodeWire_wireFields, ← hmatch, ← BitVec.and_or_distrib_left, BitVec.not_or_self, BitVec.and_allOnes]

theorem decodeWire_encodeWire (x : WireByte) : decodeWire (wireClassOf x) (encodeWire x) = some x := by
  rw [decodeWire, isOfClass, encodeWire_and_wireMask, wireFields_encodeWire, if_pos (beq_self_eq_true _)]

/-- A byte read as a class is that class's picture of the fields read. -/
theorem eq_of_decodeWire {cls : WireClass} {b : Byte} {x : WireByte} (h : decodeWire cls b = some x) :
    wireClassOf x = cls ∧ encodeWire x = b := by
  unfold decodeWire at h
  split at h
  next hcls =>
    obtain rfl := Option.some.inj h
    exact ⟨wireClassOf_wireFields cls b, encodeWire_wireFields_of_isOfClass hcls⟩
  next => cases h

theorem encode_wire (x : WireByte) (off : BitVec 6) :
    encode (x.instr off) = .frameByte (wireClassOf x) off (encodeWire x) := by
  cases x <;> rfl

/-! ## Host lines -/

/-- Settles O7, by the four kinds of instruction. -/
theorem decodeOfEncodeIsTheInstruction : Obligations.DecodeOfEncodeIsTheInstruction := by
  intro i hwf
  obtain ⟨o, rfl⟩ | ⟨x, off, rfl⟩ | ⟨addr, v, rfl⟩ | ⟨addr, rfl⟩ := instr_cases i
  · rw [encode_opcode, decode_command hwf]
  · rw [encode_wire]
    simp only [decode, decodeWire_encodeWire]
  · simp only [encode, decode, decodeAccess_writeWord]
  · simp only [encode, decode, decodeAccess_readWord]

/-- Settles O8, by the three kinds of line. -/
theorem encodeOfDecodeIsTheLine : Obligations.EncodeOfDecodeIsTheLine := by
  intro l i h
  cases l with
  | command op =>
    obtain rfl := Except.ok.inj h
    exact ⟨by rw [encode_opcode, encodeOpcode_decodeOpcode], fun _ => wf_decodeOpcode op⟩
  | access w =>
    simp only [decode] at h
    split at h
    next j hw =>
      obtain rfl := Except.ok.inj h
      obtain ⟨henc, hwf⟩ := encode_of_decodeAccess hw
      exact ⟨henc, fun _ => hwf⟩
    next => cases h
  | frameByte cls off b =>
    simp only [decode] at h
    split at h
    next x hx =>
      obtain rfl := Except.ok.inj h
      obtain ⟨rfl, rfl⟩ := eq_of_decodeWire hx
      exact ⟨encode_wire x off, fun hnot => absurd rfl (hnot _ _ _)⟩
    next => cases h

/-- Settles O5, by running the decoder on the words. -/
theorem specWordsDecode : Obligations.SpecWordsDecode := by
  unfold Obligations.SpecWordsDecode
  decide

/-! ## A frame byte in the buffer (30_encoding.md R110) -/

/-- Two bit fields side by side, as a number. -/
theorem toNat_append_eq_add {n m : Nat} (x : BitVec n) (y : BitVec m) :
    (x ++ y).toNat = 2 ^ m * x.toNat + y.toNat := by
  rw [BitVec.toNat_append, ← Nat.shiftLeft_add_eq_or_of_lt y.isLt, Nat.shiftLeft_eq, Nat.mul_comm]

/-- The bits of a class's picture have the value of its fields and its fixed bits. -/
theorem toNat_encodeWire (x : WireByte) : (encodeWire x).toNat = wireValue x := by
  cases x with
  | ambientLight level => rfl
  | terminator => rfl
  | _ =>
    simp only [encodeWire, wireValue, toNat_append_eq_add, BitVec.toNat_ofBool, BitVec.toNat_ofNat]
    omega

/-- Settles O14: a frame byte is one buffer write of its picture. -/
theorem frameByteLoadsIntoTheBuffer : Obligations.FrameByteLoadsIntoTheBuffer := by
  intro x off s
  have hread (a : Nat) := bufRead_bufWrite s off.toNat a (encodeWire x)
  refine ⟨_, exec_wire x off s, rfl, ?_, ?_, fun a ha => (hread a).trans (if_neg ha)⟩
  · rw [hread, if_pos rfl, toNat_encodeWire]
  · rw [hread, if_pos rfl, encodeWire_and_wireMask]

/-! ## `0xFF` in what an encode writes (30_encoding.md R121) -/

/-- Every other class has a fixed bit that is 0. -/
theorem encodeWire_ne_FF {x : WireByte} (hterm : x ≠ .terminator) (hlevel : x ≠ .ambientLight 0xFF) :
    encodeWire x ≠ 0xFF := by
  intro hFF
  have hmatch := encodeWire_and_wireMask x
  rw [hFF] at hmatch
  cases x with
  | terminator => exact hterm rfl
  | ambientLight level => exact hlevel (congrArg WireByte.ambientLight hFF)
  | _ => simp [wireClassOf, wireMask, wireMatch] at hmatch

theorem tpPack_ne_FF (p : Params) (t : Int) (pl : Bool) : (tpPack p t pl).1 ≠ 0xFF ∧ (tpPack p t pl).2 ≠ 0xFF :=
  ⟨encodeWire_ne_FF (x := .tpByte0 pl _) nofun nofun, encodeWire_ne_FF (x := .tpByte1 _) nofun nofun⟩

theorem crcByte_ne_FF (c : Crc7) : crcByte c ≠ 0xFF :=
  encodeWire_ne_FF (x := .crc c) nofun nofun

theorem trailerBytes_ne_FF (p : Params) (t : Int) (pl : Bool) : ∀ v ∈ trailerBytes p t pl, v ≠ 0xFF := by
  obtain ⟨h0, h1⟩ := tpPack_ne_FF p t pl
  simp only [trailerBytes, List.forall_mem_cons]
  exact ⟨h0, h1, crcByte_ne_FF _, by simp⟩

/-- The only byte of a payload that could be `0xFF` is the ambient-light level, and then the descriptor is refused. -/
theorem payload_ne_FF {p : Params} {occTx : Bool} {d : Desc} (hd : d.unsendable = false) :
    ∀ v ∈ payload p occTx d, v ≠ 0xFF := by
  intro v hv
  simp only [payload, List.mem_append, List.mem_ite_nil_right, List.mem_cons, List.not_mem_nil, or_false] at hv
  obtain (((rfl | ⟨-, rfl | rfl⟩) | ⟨-, rfl | rfl⟩) | rfl) | ⟨halp, rfl⟩ := hv
  case inl.inl.inr.inl => exact (tpPack_ne_FF _ _ _).1
  case inl.inl.inr.inr => exact (tpPack_ne_FF _ _ _).2
  case inr =>
    intro hlevel
    change d.fambl = 0xFF at hlevel
    simp [Desc.unsendable, halp, hlevel] at hd
  all_goals exact encodeWire_ne_FF nofun nofun

/-- A frame without its terminator (30_encoding.md R117, R118). -/
def frameBody (p : Params) (occTx : Bool) (d : Desc) : List Byte :=
  payload p occTx d ++ [crcByte (crc7 p.fullCrcSeed (payload p occTx d))]

theorem frameBytes_eq_concat (p : Params) (occTx : Bool) (d : Desc) :
    frameBytes p occTx d = frameBody p occTx d ++ [encodeWire .terminator] := by
  simp [frameBytes, frameBody]

theorem frameBody_ne_FF {p : Params} {occTx : Bool} {d : Desc} (hd : d.unsendable = false) :
    ∀ v ∈ frameBody p occTx d, v ≠ 0xFF :=
  List.forall_mem_append.2 ⟨payload_ne_FF hd, by simpa using crcByte_ne_FF _⟩

/-- A run of bytes read back: each byte but the last, and the last. -/
theorem bufRead_bufWriteList_concat (off : Nat) (vs : List Byte) (w : Byte) (s : State) :
    (∀ a, off ≤ a → a < off + vs.length → bufRead (bufWriteList off (vs ++ [w]) s) a ∈ vs) ∧
      bufRead (bufWriteList off (vs ++ [w]) s) (off + vs.length) = w := by
  refine ⟨fun a hlo hhi => ?_, ?_⟩
  · rw [bufRead_bufWriteList, dif_pos ⟨hlo, by simp; omega⟩, List.getElem_append_left (by omega)]
    exact List.getElem_mem _
  · rw [bufRead_bufWriteList, dif_pos ⟨by omega, by simp⟩]
    simp

/-- The effect behind a command that succeeded. -/
theorem effect_of_exec_ok {o : Opcode} {s t : State} (h : exec o.instr s = .next t) (hok : t.ok = true) :
    ∃ fin u, CommandEffect { s with cmd := encodeOpcode o } o (.ok fin) u ∧ t = writeStatus (.ok fin) u := by
  obtain ⟨r, u, hu, rfl⟩ := effect_of_exec h
  cases r with
  | error e => simp at hok
  | ok fin => exact ⟨fin, u, hu, rfl⟩

/-- `POS` after a move within a good window (10_state.md R38). -/
theorem toNat_pos_add {s : State} {n : Nat} (hw : s.badWindow = false) (hn : n ≤ s.room) :
    (BitVec.ofNat 8 (s.pos.toNat + n)).toNat = s.pos.toNat + n := by
  obtain ⟨hle, hlim⟩ := badWindow_eq_false.1 hw
  rw [State.room] at hn
  rw [BitVec.toNat_ofNat, Nat.mod_eq_of_lt (by omega)]

/-- A state whose buffer is that of a run written to `s`, or to `s` with another `CMD`, reads as the run. -/
theorem bufRead_of_buf_eq {s t : State} {op : Byte} {off : Nat} {vs : List Byte}
    (hbuf : t.buf = (bufWriteList off vs { s with cmd := op }).buf) (hresets : t.resets = s.resets) (a : Nat) :
    bufRead t a = bufRead (bufWriteList off vs s) a := by
  calc bufRead t a
    _ = bufRead (bufWriteList off vs { s with cmd := op }) a :=
      sameBuf_of_eq hbuf (hresets.trans (bufWriteList_resets off vs { s with cmd := op }).symm) a
    _ = bufRead (bufWriteList off vs s) a := by
      simp only [bufRead_bufWriteList]
      rfl

/-- A trailer encode that succeeded wrote the trailer at the old `POS` and moved `POS` past it. -/
theorem bufRead_of_mtpEnc {s t : State} (h : exec .mtpEnc s = .next t) (hok : t.ok = true) :
    (∀ a, bufRead t a = bufRead (bufWriteList s.pos.toNat (trailerBytes s.params s.ftemp.toInt s.desc.pl) s) a) ∧
      t.pos.toNat = s.pos.toNat + 3 := by
  obtain ⟨fin, u, hu, rfl⟩ := effect_of_exec_ok (o := .mtpEnc) h hok
  cases hu with
  | mtpEnc hw hroom => exact ⟨bufRead_of_buf_eq rfl rfl, toNat_pos_add hw hroom⟩

/-- A frame encode that succeeded wrote the frame at the old `POS` and left `POS` at its last byte. -/
theorem bufRead_of_fsmEnc {s t : State} (h : exec .fsmEnc s = .next t) (hok : t.ok = true) :
    s.desc.unsendable = false ∧
    (∀ a, bufRead t a = bufRead (bufWriteList s.pos.toNat (frameBytes s.params s.occTx s.desc) s) a) ∧
      t.pos.toNat + 1 = s.pos.toNat + (frameBytes s.params s.occTx s.desc).length := by
  obtain ⟨fin, u, hu, rfl⟩ := effect_of_exec_ok (o := .fsmEnc) h hok
  cases hu with
  | fsmEnc hsec hw hd hroom =>
    refine ⟨hd, bufRead_of_buf_eq rfl rfl, ?_⟩
    rw [frameBytes_length]
    exact congrArg (· + 1) (toNat_pos_add hw (Nat.le_of_lt hroom))

/-- Settles O40: what is read back is the frame or the trailer, of which every byte but a terminator is not `0xFF`. -/
theorem onlyTheTerminatorIsFF : Obligations.OnlyTheTerminatorIsFF := by
  refine ⟨fun s t h hok => ?_, fun s t h hok off hlo hhi => ?_⟩
  · obtain ⟨hd, hbuf, hpos⟩ := bufRead_of_fsmEnc h hok
    rw [frameBytes_eq_concat, List.length_append, List.length_singleton] at hpos
    obtain ⟨hinit, hlast⟩ := bufRead_bufWriteList_concat s.pos.toNat
      (frameBody s.params s.occTx s.desc) (encodeWire .terminator) s
    simp only [hbuf, frameBytes_eq_concat]
    refine ⟨fun off hlo hhi => frameBody_ne_FF hd _ (hinit off hlo (by omega)), ?_⟩
    rwa [show t.pos.toNat = s.pos.toNat + (frameBody s.params s.occTx s.desc).length by omega]
  · obtain ⟨hbuf, hpos⟩ := bufRead_of_mtpEnc h hok
    rw [hbuf, bufRead_bufWriteList, dif_pos ⟨hlo, by simp [trailerBytes]; omega⟩]
    exact trailerBytes_ne_FF _ _ _ _ (List.getElem_mem _)

/-! ## Scripts (30_encoding.md R103, R105) -/

theorem eq_of_pending {s : State} {es : List HostEvent} (h : s.pending = es) : s = { s with pending := es } :=
  congrArg (fun es => { s with pending := es }) h

theorem writeReg_pending (r : Reg) (v : BusWord) (s : State) : (writeReg r v s).pending = s.pending := by
  cases r <;> rfl

theorem writeReg_setPending (r : Reg) (v : BusWord) (s : State) (es : List HostEvent) :
    { writeReg r v s with pending := es } = writeReg r v { s with pending := es } := by
  cases r <;> rfl

/-- A run goes on from the state its first step answers. -/
theorem run_succ {k : Nat} {s t : State} (h : step s = .next t) :
    Sys2Proof.core.run (k + 1) s = Sys2Proof.core.run k t := by
  have hcore : Sys2Proof.core.step s = .next t := h
  simp only [Host.Core.run, hcore]

/-- A script line that is a bus write runs as that write. -/
theorem step_write {s : State} {addr : Byte} {v : BusWord} {rest : List HostEvent}
    (h : s.pending = .line (.access (writeWord addr v)) :: rest) :
    step s = exec (.scriptWr addr v) { s with pending := rest } :=
  step_line_ok h (decodeOfEncodeIsTheInstruction (.scriptWr addr v) rfl)

/-- A line `WR reg, value` runs as the register write. -/
theorem run_wr {k : Nat} {s : State} {r : Reg} {v : BusWord} {rest : List HostEvent} (hr : r ≠ .cmd)
    (h : s.pending = wr r v :: rest) :
    Sys2Proof.core.run (k + 1) s = Sys2Proof.core.run k (writeReg r v { s with pending := rest }) :=
  run_succ ((step_write h).trans (exec_scriptWr_register (busTarget_regAddress r) hr v _))

/-- A script of register writes makes them one after another. -/
theorem run_registerWrites {ws : List (Reg × BusWord)} {s : State} (hws : ∀ w ∈ ws, w.1 ≠ .cmd)
    (h : s.pending = ws.map fun w => wr w.1 w.2) :
    Sys2Proof.core.run ws.length s =
      .next (ws.foldl (fun t w => writeReg w.1 w.2 t) { s with pending := [] }) := by
  induction ws generalizing s with
  | nil => exact congrArg Host.Outcome.next (eq_of_pending h)
  | cons w ws ih =>
    obtain ⟨hw, hws⟩ := List.forall_mem_cons.1 hws
    refine (run_wr hw h).trans ((ih hws (writeReg_pending w.1 w.2 _)).trans ?_)
    rw [writeReg_setPending]
    rfl

/-- A line `WR BUF[off], byte` runs as the buffer write. -/
theorem run_wrBuf {k : Nat} {s : State} {off : Nat} {v : Byte} {rest : List HostEvent} (hoff : off < 64)
    (h : s.pending = wrBuf off v :: rest) :
    Sys2Proof.core.run (k + 1) s = Sys2Proof.core.run k (bufWrite off v { s with pending := rest }) := by
  have haddr : (bufAddress off).toNat = 0x40 + off := by
    rw [bufAddress, BitVec.toNat_ofNat]
    omega
  have htarget : busTarget (bufAddress off) = .buffer off := by
    rw [busTarget_of_buffer (by omega) (by omega), haddr, Nat.add_sub_cancel_left]
  have hv : (v.setWidth 16).setWidth 8 = v := by simp
  exact run_succ ((step_write h).trans ((exec_scriptWr_buffer htarget _ _).trans (by rw [hv])))

/-- A command line runs the command. -/
theorem run_commandLine {k : Nat} {s t : State} {o : Opcode} {r : Except FailCode Bool} {rest : List HostEvent}
    (ho : o.instr.wf = true) (h : s.pending = cmd o :: rest)
    (heff : CommandEffect { s with pending := rest, cmd := encodeOpcode o } o r t) :
    Sys2Proof.core.run (k + 1) s = Sys2Proof.core.run k (writeStatus r t) :=
  run_succ ((step_line_ok h (decode_command ho)).trans (exec_of_effect heff))

/-- The first two lines of `CRC7.MSG`: the seed into `CRC`. -/
theorem run_crcSeed {k : Nat} {s : State} {seed : Byte} {rest : List HostEvent}
    (h : s.pending = wr .b (seed.setWidth 16) :: cmd .crc7Seed :: rest) :
    ∃ t : State, Sys2Proof.core.run (k + 2) s = Sys2Proof.core.run k t ∧
      t.crc = seed.setWidth 7 ∧ t.pending = rest ∧ SameBuf s t ∧ SameNv s t := by
  refine ⟨_, (run_wr (by decide) h).trans (run_commandLine rfl rfl .crc7Seed), ?_, rfl, fun _ => rfl, fun _ => rfl⟩
  change ((seed.setWidth 16).setWidth 8).setWidth 7 = seed.setWidth 7
  simp

/-- Two lines of `CRC7.MSG` for one byte of the message: the byte folded into `CRC`. -/
theorem run_crcByte {k : Nat} {s : State} {v : Byte} {rest : List HostEvent}
    (h : s.pending = wr .b (v.setWidth 16) :: cmd .crc7Upd :: rest) :
    ∃ t : State, Sys2Proof.core.run (k + 2) s = Sys2Proof.core.run k t ∧
      t.crc = crc7Upd s.crc v ∧ t.pending = rest ∧ SameBuf s t ∧ SameNv s t := by
  refine ⟨_, (run_wr (by decide) h).trans (run_commandLine rfl rfl .crc7Upd), ?_, rfl, fun _ => rfl, fun _ => rfl⟩
  change crc7Upd s.crc ((v.setWidth 16).setWidth 8) = crc7Upd s.crc v
  simp

/-- The message lines of `CRC7.MSG` fold the whole message into `CRC` (43_crc7.md R202). -/
theorem run_crcMessage {m : List Byte} {s : State}
    (h : s.pending = m.flatMap fun v => [wr .b (v.setWidth 16), cmd .crc7Upd]) :
    ∃ t : State, Sys2Proof.core.run (2 * m.length) s = .next t ∧
      t.crc = crc7 s.crc m ∧ t.pending = [] ∧ SameBuf s t ∧ SameNv s t := by
  induction m generalizing s with
  | nil => exact ⟨s, rfl, rfl, h, fun _ => rfl, fun _ => rfl⟩
  | cons v m ih =>
    obtain ⟨u, hrun, hcrc, hpending, hbuf, hnv⟩ := run_crcByte (k := 2 * m.length) h
    obtain ⟨t, hrun', hcrc', hpending', hbuf', hnv'⟩ := ih hpending
    refine ⟨t, hrun.trans hrun', ?_, hpending', fun off => (hbuf' off).trans (hbuf off),
      fun a => (hnv' a).trans (hnv a)⟩
    rw [hcrc', hcrc]
    rfl

/-- `LDB` is one run of bytes written to the buffer. -/
theorem run_ldb {off : Nat} {bytes : List Byte} {s : State} (hoff : off + bytes.length ≤ 64)
    (h : s.pending = ldb off bytes) :
    Sys2Proof.core.run bytes.length s = .next (bufWriteList off bytes { s with pending := [] }) := by
  induction bytes generalizing off s with
  | nil => exact congrArg Host.Outcome.next (eq_of_pending h)
  | cons v bytes ih =>
    rw [List.length_cons] at hoff
    exact (run_wrBuf (by omega) h).trans (ih (by omega) rfl)

/-- Settles O15: each pseudo-instruction line by line, `CRC7.MSG` and `LDB` by induction on their bytes. -/
theorem pseudoInstructionsDoWhatTheySay : Obligations.PseudoInstructionsDoWhatTheySay := by
  refine ⟨fun seed m s => ?_, fun flags id temp ambl s => ?_, fun pos lim s => ?_, fun off bytes s hoff => ?_⟩
  · obtain ⟨u, hrun, hcrc, hpending, hbuf, hnv⟩ :=
      run_crcSeed (k := 2 * m.length) (s := { s with pending := crc7Msg seed m }) rfl
    obtain ⟨t, hrun', hcrc', hpending', hbuf', hnv'⟩ := run_crcMessage hpending
    rw [Nat.add_comm]
    exact ⟨t, hrun.trans hrun', hcrc ▸ hcrc', hpending', fun off => (hbuf' off).trans (hbuf off),
      fun a => (hnv' a).trans (hnv a)⟩
  · exact run_registerWrites (ws := [(.fflags, flags), (.fid, id), (.ftemp, temp), (.fambl, ambl)])
      (s := { s with pending := ldf flags id temp ambl }) (by simp) rfl
  · exact run_registerWrites (ws := [(.pos, pos), (.lim, lim)]) (s := { s with pending := win pos lim }) (by simp) rfl
  · refine ⟨_, run_ldb (s := { s with pending := ldb off bytes }) hoff rfl, bufWriteList_eq _ _ _,
      bufBytes_bufWriteList _ _ _, fun a ha => ?_⟩
    rw [bufRead_bufWriteList, dif_neg (by omega)]
    rfl

end Sys2Proof.Proofs

/-! PROOFS. The control commands (40_control.md): `NOP` and the reserved opcodes, each with the one way it can end. -/

namespace Sys2Proof.Proofs

open Sys2Proof.Machine

/-- Settles O24: `NOP` succeeds with no step of its own, so `CMD` and `STATUS` are all that is written. -/
theorem nopClearsAFailureAndNothingElse : Obligations.NopClearsAFailureAndNothingElse := by
  intro s
  have heffect : CommandEffect { s with cmd := encodeOpcode .nop } .nop (.ok false) { s with cmd := 0x00 } := .nop
  have hstatus : statusOf (.ok false) = 0x01 := by decide
  exact hstatus ▸ exec_of_effect heffect

/-- Settles O25: a reserved opcode fails with `E_BADOP` and runs no failure action, so the descriptor stays too. -/
theorem reservedOpcodeFailsWithBadOp : Obligations.ReservedOpcodeFailsWithBadOp := by
  intro op s _
  have heffect : CommandEffect { s with cmd := encodeOpcode (.reserved op) } (.reserved op) (.error .badOp)
      { s with cmd := op } := .reserved op
  have hstatus : statusOf (.error .badOp) = 0xF0 := by decide
  exact hstatus ▸ exec_of_effect heffect

end Sys2Proof.Proofs

/-! PROOFS. The temperature compander (41_compander.md). Its three bands of codes and of temperatures meet at the same
edges, which makes `expand` the lower adjoint of `compress` on the codes that occur; the properties of R153 and R159
follow from that. -/

namespace Sys2Proof.Proofs

open Sys2Proof.Machine

/-! ## The bands (00_scope.md R14) -/

/-- Each band of temperatures is as wide as its codes say, so each band of codes starts on the code after the last one of
the band before it (41_compander.md R152). -/
theorem band_edges {p : Params} (hp : p.wf) :
    low p = 8 * lowAfter p ∧
    lowAfter p < highAfter p ∧ high p + 2 * lowAfter p = low p + 2 * highAfter p ∧
    highAfter p ≤ ceilAfter p ∧ 1600 + 8 * highAfter p = high p + 8 * ceilAfter p := by
  obtain ⟨-, -, -, ⟨hlt, hhigh, -⟩, -, -⟩ := hp
  simp only [ceilAfter, highAfter, lowAfter, low, high, ceil16]
  omega

/-- The ceiling's code (41_compander.md R153 (c)). -/
theorem ceilAfter_eq {p : Params} (hp : p.wf) : ceilAfter p = 200 + 6 * (p.cmpHighC - p.cmpLowC) := by
  obtain ⟨-, -, -, ⟨hlt, hhigh, -⟩, -, -⟩ := hp
  simp only [ceilAfter, highAfter, lowAfter, low, high, ceil16]
  omega

/-- The bands of `compress` in integer arithmetic (41_compander.md R152). -/
theorem compress_eq (p : Params) (t : Int) :
    (compress p t : Int) =
      if t ≤ 0 then 0
      else if t < low p then t / 8
      else if t < high p then lowAfter p + (t - low p) / 2
      else if t < 1600 then highAfter p + (t - high p) / 8
      else ceilAfter p := by
  unfold compress ceil16
  split_ifs <;> omega

/-- The bands of `expand` as steps of 8, 2 and 8 (41_compander.md R158). -/
theorem expandCode_eq (p : Params) (c : Nat) :
    expandCode p c =
      if c < lowAfter p then 8 * c
      else if c < highAfter p then low p + 2 * (c - lowAfter p)
      else if c ≤ ceilAfter p then high p + 8 * (c - highAfter p)
      else 1600 := by
  simp only [expandCode, ceil16]
  split_ifs <;> omega

theorem compress_of_nonpos (p : Params) {t : Int} (ht : t ≤ 0) : compress p t = 0 := if_pos ht

theorem compress_of_ceil_le {p : Params} (hp : p.wf) {t : Int} (ht : 1600 ≤ t) : compress p t = ceilAfter p := by
  obtain ⟨hlow, hmid, hhigh, htop, hceil⟩ := band_edges hp
  have h := compress_eq p t
  rw [if_neg (by omega), if_neg (by omega), if_neg (by omega), if_neg (by omega)] at h
  exact_mod_cast h

/-- In the range the bands are three, as the code of the ceiling continues the last (41_compander.md R152). -/
theorem compress_eq_of_mem {p : Params} (hp : p.wf) {u : Int} (hu : 0 ≤ u) (hu' : u ≤ 1600) :
    (compress p u : Int) =
      if u < low p then u / 8
      else if u < high p then lowAfter p + (u - low p) / 2
      else highAfter p + (u - high p) / 8 := by
  obtain ⟨hlow, hmid, hhigh, htop, hceil⟩ := band_edges hp
  rw [compress_eq]
  split_ifs <;> omega

/-- A temperature outside the range compresses as the nearest bound (41_compander.md R153 (b)). -/
theorem compress_clamp {p : Params} (hp : p.wf) (t : Int) : compress p (min (max t 0) 1600) = compress p t := by
  obtain ht | ht := le_total t 0
  · rw [max_eq_right ht, min_eq_left (by decide), compress_of_nonpos p le_rfl, compress_of_nonpos p ht]
  · rw [max_eq_left ht]
    obtain ht' | ht' := le_total t 1600
    · rw [min_eq_left ht']
    · rw [min_eq_right ht', compress_of_ceil_le hp le_rfl, compress_of_ceil_le hp ht']

/-! ## `expand` against `compress` -/

/-- No two codes that occur expand to the same temperature, and they expand in their order. -/
theorem expandCode_lt {p : Params} (hp : p.wf) {c d : Nat} (hcd : c < d) (hd : d ≤ ceilAfter p) :
    expandCode p c < expandCode p d := by
  obtain ⟨hlow, hmid, hhigh, htop, hceil⟩ := band_edges hp
  rw [expandCode_eq, expandCode_eq]
  split_ifs <;> omega

theorem expandCode_le_ceil {p : Params} (hp : p.wf) (c : Nat) : expandCode p c ≤ 1600 := by
  obtain ⟨hlow, hmid, hhigh, htop, hceil⟩ := band_edges hp
  rw [expandCode_eq]
  split_ifs <;> omega

/-- `expandCode_le_iff` for a temperature in the range, where its band and the code's decide. -/
theorem expandCode_le_iff_of_mem {p : Params} (hp : p.wf) {c : Nat} (hc : c ≤ ceilAfter p) {u : Int} (hu : 0 ≤ u)
    (hu' : u ≤ 1600) : (expandCode p c : Int) ≤ u ↔ c ≤ compress p u := by
  obtain ⟨hlow, hmid, hhigh, htop, hceil⟩ := band_edges hp
  have hcode := compress_eq_of_mem hp hu hu'
  rw [expandCode_eq]
  split_ifs at hcode ⊢ <;> omega

/-- `expand` of a code is at most a temperature exactly when the code is at most that temperature's: on the codes that
occur, `expand` is the lower adjoint of `compress`. -/
theorem expandCode_le_iff {p : Params} (hp : p.wf) {c : Nat} (hc : c ≤ ceilAfter p) (t : Int) :
    (expandCode p c : Int) ≤ max t 0 ↔ c ≤ compress p t := by
  have hceil := expandCode_le_ceil hp c
  have hclamp : (expandCode p c : Int) ≤ max t 0 ↔ (expandCode p c : Int) ≤ min (max t 0) 1600 := by omega
  rw [hclamp, ← compress_clamp hp t]
  exact expandCode_le_iff_of_mem hp hc (le_min (le_max_right t 0) (by decide)) (min_le_right _ _)

/-- Compressing and expanding again never goes up (41_compander.md R159 (b)). -/
theorem expandCode_compress_le {p : Params} (hp : p.wf) (t : Int) : (expandCode p (compress p t) : Int) ≤ max t 0 :=
  (expandCode_le_iff hp (compress_le_ceilAfter hp t) t).2 le_rfl

/-- `compress` is monotone (41_compander.md R153 (a)). -/
theorem compress_mono {p : Params} (hp : p.wf) {t u : Int} (h : t ≤ u) : compress p t ≤ compress p u :=
  (expandCode_le_iff hp (compress_le_ceilAfter hp t) u).1
    ((expandCode_compress_le hp t).trans (max_le_max_right 0 h))

/-- `compress` undoes `expand` on the codes that occur (41_compander.md R159 (a)): it gives no smaller code by the
adjunction, and no greater one because that would expand to more. -/
theorem compress_expandCode {p : Params} (hp : p.wf) {c : Nat} (hc : c ≤ ceilAfter p) :
    compress p (expandCode p c) = c := by
  have hmax : max (expandCode p c : Int) 0 = expandCode p c := by omega
  have hge : c ≤ compress p (expandCode p c) := (expandCode_le_iff hp hc _).1 hmax.ge
  refine hge.antisymm' (Nat.le_of_not_lt fun hgt => ?_)
  have hle := expandCode_compress_le hp (expandCode p c)
  have hlt := expandCode_lt hp hgt (compress_le_ceilAfter hp _)
  omega

/-- The round trip rounds a temperature in the range down to the step of its band (41_compander.md R159 (b)). -/
theorem expandCode_compress {p : Params} (hp : p.wf) {u : Int} (hu : 0 ≤ u) (hu' : u ≤ 1600) :
    (expandCode p (compress p u) : Int) =
      if u < low p then u / 8 * 8 else if u < high p then u / 2 * 2 else u / 8 * 8 := by
  obtain ⟨hlow, hmid, hhigh, htop, hceil⟩ := band_edges hp
  have hcode := compress_eq_of_mem hp hu hu'
  rw [expandCode_eq]
  split_ifs at hcode with hl hh
  · rw [if_pos (by omega), if_pos hl]
    omega
  · rw [if_neg (by omega), if_pos (by omega), if_neg hl, if_pos hh]
    omega
  · rw [if_neg (by omega), if_neg (by omega), if_pos (by omega), if_neg hl, if_neg hh]
    omega

/-! ## `expand` as a 16-bit pattern -/

theorem expand_byteFF (p : Params) : expand p byteFF = p.unsetInt := if_pos rfl

theorem expand_of_ne {p : Params} {c : Byte} (hc : c ≠ byteFF) : expand p c = BitVec.ofNat 16 (expandCode p c.toNat) :=
  if_neg hc

/-- At most 1600, an expanded code fits in 16 bits (41_compander.md R161). -/
theorem toNat_expand {p : Params} (hp : p.wf) {c : Byte} (hc : c ≠ byteFF) :
    (expand p c).toNat = expandCode p c.toNat := by
  have h := expandCode_le_ceil hp c.toNat
  rw [expand_of_ne hc, BitVec.toNat_ofNat, Nat.mod_eq_of_lt (by omega)]

/-- At most 1600, an expanded code is not negative as a 16-bit pattern either (41_compander.md R161). -/
theorem toInt_expand {p : Params} (hp : p.wf) {c : Byte} (hc : c ≠ byteFF) :
    (expand p c).toInt = expandCode p c.toNat := by
  have h := expandCode_le_ceil hp c.toNat
  rw [BitVec.toInt_eq_toNat_of_lt (by rw [toNat_expand hp hc]; omega), toNat_expand hp hc]

/-- A code that occurs is not the sentinel (41_compander.md R153 (c)). -/
theorem toInt_expand_ofNat {p : Params} (hp : p.wf) {c : Nat} (hc : c ≤ ceilAfter p) :
    (expand p (BitVec.ofNat 8 c)).toInt = expandCode p c := by
  have h254 := ceilAfter_le hp
  have htoNat : (BitVec.ofNat 8 c).toNat = c := by rw [BitVec.toNat_ofNat, Nat.mod_eq_of_lt (by omega)]
  have hne : BitVec.ofNat 8 c ≠ byteFF := by
    intro h
    have : c = 255 := htoNat.symm.trans (congrArg BitVec.toNat h)
    omega
  rw [toInt_expand hp hne, htoNat]

theorem toInt_expand_bounds {p : Params} (hp : p.wf) {c : Byte} (hc : c ≠ byteFF) :
    0 ≤ (expand p c).toInt ∧ (expand p c).toInt ≤ 1600 := by
  have h := expandCode_le_ceil hp c.toNat
  rw [toInt_expand hp hc]
  omega

/-- Only the sentinel expands to `UNSET_INT` (41_compander.md R159 (d)), which is no temperature `expand` gives
(00_scope.md R10). -/
theorem expand_eq_unsetInt_iff {p : Params} (hp : p.wf) (c : Byte) : expand p c = p.unsetInt ↔ c = byteFF := by
  refine ⟨fun h => by_contra fun hc => ?_, fun h => h ▸ expand_byteFF p⟩
  obtain ⟨hlo, hhi⟩ := toInt_expand_bounds hp hc
  obtain ⟨-, -, -, -, hunset, -⟩ := hp
  rw [h] at hlo hhi
  omega

/-! ## The statements -/

/-- Settles O47, from the adjunction (monotone, onto) and the values at and outside the two ends. -/
theorem compressIsMonotoneClampedAndOnto : Obligations.CompressIsMonotoneClampedAndOnto := by
  intro p hp
  have hceil : compress p 1600 = ceilAfter p := compress_of_ceil_le hp le_rfl
  rw [hceil]
  exact ⟨fun _ _ => compress_mono hp,
    fun _ ht => (compress_of_nonpos p ht.le).trans (compress_of_nonpos p le_rfl).symm,
    fun _ ht => compress_of_ceil_le hp ht.le,
    ceilAfter_eq hp, ceilAfter_le hp,
    fun c hc => ⟨expandCode p c, compress_expandCode hp hc⟩⟩

/-- Settles O48: `expand` on the codes that occur is `expandCode`, which the adjunction and the round trip describe. -/
theorem expandInvertsCompress : Obligations.ExpandInvertsCompress := by
  intro p hp
  have hround (t : Int) : (expand p (BitVec.ofNat 8 (compress p t))).toInt = expandCode p (compress p t) :=
    toInt_expand_ofNat hp (compress_le_ceilAfter hp t)
  refine ⟨fun c hc => ?_, fun t => ?_, fun x hx => ?_, expand_eq_unsetInt_iff hp, fun _ => toInt_expand_bounds hp⟩
  · rw [compress_of_ceil_le hp le_rfl] at hc
    rw [toInt_expand_ofNat hp hc]
    refine ⟨compress_expandCode hp hc, fun t ht hcode => ?_⟩
    rw [← max_eq_left ht]
    exact (expandCode_le_iff hp hc t).2 hcode.ge
  · rw [← compress_clamp hp t, hround]
    exact_mod_cast expandCode_compress hp (le_min (le_max_right t 0) (by decide)) (min_le_right _ _)
  · rw [hround, expandCode_compress hp (by omega) (by omega)]
    simp only [low, high]
    split_ifs <;> omega

/-- Settles O45: `TC.CMP` has one way to end, with `compress` of `A` in `Q`. -/
theorem compressCommandFollowsTheBands : Obligations.CompressCommandFollowsTheBands := by
  intro s hp
  have heffect : CommandEffect { s with cmd := encodeOpcode .tcCmp } .tcCmp (.ok false)
      { s with cmd := 0x40, q := BitVec.ofNat 16 (compress s.params s.a.toInt) } := .tcCmp
  have hstatus : statusOf (.ok false) = 0x01 := by decide
  refine ⟨compress s.params s.a.toInt, hstatus ▸ exec_of_effect heffect,
    (compress_le_ceilAfter hp _).trans (ceilAfter_le hp), ?_⟩
  obtain ⟨-, -, -, ⟨hlt, hhigh, -⟩, -, -⟩ := hp
  rw [compress_eq]
  simp only [ceilAfter, highAfter, lowAfter, low, high, ceil16]
  split_ifs <;> omega

/-- Settles O46: `TC.EXP` has one way to end, with `expand` of `B` in `Q`. -/
theorem expandCommandFollowsTheBands : Obligations.ExpandCommandFollowsTheBands := by
  intro s hp
  have heffect : CommandEffect { s with cmd := encodeOpcode .tcExp } .tcExp (.ok false)
      { s with cmd := 0x41, q := expand s.params s.b } := .tcExp
  have hstatus : statusOf (.ok false) = 0x01 := by decide
  refine ⟨expand s.params s.b, hstatus ▸ exec_of_effect heffect, fun hc => ?_, fun hc => ?_⟩
  · exact (expand_eq_unsetInt_iff hp s.b).2 (BitVec.eq_of_toNat_eq hc)
  · rw [toNat_expand hp fun h => hc (congrArg BitVec.toNat h), expandCode_eq]
    simp only [ceilAfter, highAfter, lowAfter, low, high, ceil16, Nat.shiftRight_eq_div_pow, Nat.reducePow]

end Sys2Proof.Proofs

/-! PROOFS. Smoothing, the WARM bitmap, the hourly commit, and the erase of the history (42_history.md). -/

namespace Sys2Proof.Proofs

open Sys2Proof.Machine

/-! ## `STATUS` of the ways a history command can end (60_exceptions.md R270) -/

/-- A success, with the `FIN` its body gives. -/
theorem exec_of_ok {o : Opcode} {s t : State} {fin : Bool}
    (h : CommandEffect { s with cmd := encodeOpcode o } o (.ok fin) t) :
    exec o.instr s = .next { t with status := if fin then 0x03 else 0x01 } := by
  have hstatus : statusOf (.ok fin) = if fin then 0x03 else 0x01 := by cases fin <;> decide
  exact hstatus ▸ exec_of_effect h

/-- A success of a command that has no `FIN`. -/
theorem exec_of_success {o : Opcode} {s t : State}
    (h : CommandEffect { s with cmd := encodeOpcode o } o (.ok false) t) :
    exec o.instr s = .next { t with status := 0x01 } :=
  exec_of_ok h

/-- A failure with `E_INVAL`. -/
theorem exec_of_inval {o : Opcode} {s t : State}
    (h : CommandEffect { s with cmd := encodeOpcode o } o (.error .inval) t) :
    exec o.instr s = .next { t with status := 0x10 } := by
  have hstatus : statusOf (.error .inval) = 0x10 := by decide
  exact hstatus ▸ exec_of_effect h

/-! ## Smoothing (42_history.md R172, R173) -/

theorem smooth_eq (p : Params) (old new r : Nat) :
    smooth p old new r = (old * 2 ^ p.smoothShift - old + new + r) / 2 ^ p.smoothShift := by
  rw [smooth, Nat.shiftRight_eq_div_pow, Nat.mul_sub_one]

/-- A smoothed value is not below a bound of the two it comes from (42_history.md R173 (a)). -/
theorem le_smooth {p : Params} {old new m : Nat} (hold : m ≤ old) (hnew : m ≤ new) (r : Nat) :
    m ≤ smooth p old new r := by
  have hpos : 0 < 2 ^ p.smoothShift := Nat.two_pow_pos _
  rw [smooth, Nat.shiftRight_eq_div_pow, Nat.le_div_iff_mul_le hpos]
  calc m * 2 ^ p.smoothShift
    _ = m * (2 ^ p.smoothShift - 1) + m := by
      rw [← Nat.mul_succ, Nat.succ_eq_add_one, Nat.sub_add_cancel hpos]
    _ ≤ old * (2 ^ p.smoothShift - 1) + new := Nat.add_le_add (Nat.mul_le_mul_right _ hold) hnew
    _ ≤ old * (2 ^ p.smoothShift - 1) + new + r := Nat.le_add_right _ _

theorem smooth_self {p : Params} (v : Nat) {r : Nat} (hr : r < 2 ^ p.smoothShift) : smooth p v v r = v :=
  (smooth_le le_rfl le_rfl hr).antisymm (le_smooth le_rfl le_rfl r)

/-- A smoothed value goes up by at most the difference over `2^k`, rounded up (42_history.md R173 (d)). -/
theorem smooth_le_add {p : Params} (old new : Nat) {r : Nat} (hr : r < 2 ^ p.smoothShift) :
    smooth p old new r ≤ old + ((new - old) + (2 ^ p.smoothShift - 1)) / 2 ^ p.smoothShift := by
  have hpos : 0 < 2 ^ p.smoothShift := Nat.two_pow_pos _
  have hle : old ≤ old * 2 ^ p.smoothShift := Nat.le_mul_of_pos_right _ hpos
  rw [smooth_eq, Nat.add_comm old, ← Nat.add_mul_div_right _ _ hpos]
  exact Nat.div_le_div_right (by omega)

/-- A smoothed value goes down by at most the difference over `2^k`, rounded up (42_history.md R173 (d)). -/
theorem le_smooth_add (p : Params) (old new r : Nat) :
    old ≤ smooth p old new r + ((old - new) + (2 ^ p.smoothShift - 1)) / 2 ^ p.smoothShift := by
  have hpos : 0 < 2 ^ p.smoothShift := Nat.two_pow_pos _
  have hle : old ≤ old * 2 ^ p.smoothShift := Nat.le_mul_of_pos_right _ hpos
  have hceil := Nat.lt_div_mul_add (a := (old - new) + (2 ^ p.smoothShift - 1)) hpos
  rw [smooth_eq, ← Nat.add_mul_div_right _ _ hpos, Nat.le_div_iff_mul_le hpos]
  omega

/-- Summed over every remainder `r`, rounding down `(x + r) / n` loses nothing. -/
theorem sum_range_add_div {n : Nat} (hn : 0 < n) (x : Nat) : ∑ r ∈ Finset.range n, (x + r) / n = x := by
  induction x with
  | zero => exact Finset.sum_eq_zero fun r hr => by simpa using Nat.div_eq_of_lt (Finset.mem_range.1 hr)
  | succ x ih =>
    have hshift : ∑ r ∈ Finset.range n, (x + (r + 1)) / n + (x + 0) / n =
        ∑ r ∈ Finset.range n, (x + r) / n + (x + n) / n := by
      rw [← Finset.sum_range_succ' fun r => (x + r) / n, Finset.sum_range_succ]
    rw [ih, Nat.add_div_right x hn, Nat.add_zero] at hshift
    have hsum : ∑ r ∈ Finset.range n, (x + 1 + r) / n = ∑ r ∈ Finset.range n, (x + (r + 1)) / n :=
      Finset.sum_congr rfl fun r _ => by rw [Nat.add_right_comm, Nat.add_assoc]
    omega

/-- Settles O50, clause by clause from the lemmas on `smooth`; the mean is exact because rounding down loses nothing
over all samples. -/
theorem smoothIsBoundedAndFair : Obligations.SmoothIsBoundedAndFair := by
  intro p old new _ _ _ n
  refine ⟨fun r hr => ⟨le_smooth (min_le_left _ _) (min_le_right _ _) r,
    smooth_le (le_max_left _ _) (le_max_right _ _) hr, smooth_le_add old new hr, le_smooth_add p old new r⟩,
    fun r hr => smooth_self old hr, ?_⟩
  simp only [smooth, Nat.shiftRight_eq_div_pow]
  exact sum_range_add_div (Nat.two_pow_pos _) _

/-! ## Samples (42_history.md R174; log 5) -/

/-- The bits a draw gives are those of the next sample. -/
theorem drawBits_fst (s : State) : (drawBits s).1 = (sampleAt s 0).toNat % 2 ^ s.params.smoothShift := by
  rw [drawBits, (drawRnd_eq s).2, sampleAt, List.headD_eq_head?_getD, List.getD_eq_getElem?_getD,
    List.head?_eq_getElem?, Nat.add_zero]

theorem smooth_lt_byte {p : Params} {old new r : Nat} (hold : old < 256) (hnew : new < 256)
    (hr : r < 2 ^ p.smoothShift) : smooth p old new r < 256 :=
  Nat.lt_succ_of_le (smooth_le (Nat.le_of_lt_succ hold) (Nat.le_of_lt_succ hnew) hr)

/-- Settles O49: `ST.SMOOTH` has one way to end, with the next sample's bits smoothed in. -/
theorem smoothCommandFoldsInOneSample : Obligations.SmoothCommandFoldsInOneSample := by
  intro s _ k r
  have hr : r < 2 ^ k := Nat.mod_lt _ (Nat.two_pow_pos _)
  have hbits : (drawBits { s with cmd := 0x50 }).1 = r := drawBits_fst _
  refine ⟨smooth s.params s.c.toNat s.b.toNat r, ?_, smooth_eq _ _ _ _,
    le_smooth (min_le_left _ _) (min_le_right _ _) r, smooth_le (le_max_left _ _) (le_max_right _ _) hr⟩
  rw [List.drop_one, ← hbits]
  exact exec_of_success .stSmooth

/-! ## The WARM bitmap (42_history.md R175) -/

theorem toNat_warmshift (old : Byte) (w : Bool) :
    (warmshift old w).toNat = if old = 0xFF then 127 * w.toNat else old.toNat / 2 % 64 + 64 * w.toNat := by
  have hdays : old.toNat / 2 % 64 < 2 ^ 6 := Nat.mod_lt _ (by decide)
  unfold warmshift
  split
  · cases w <;> rfl
  · cases w
    · simp [Nat.shiftRight_eq_div_pow, Nat.and_two_pow_sub_one_eq_mod _ 6]
    · have hnew : 64 ||| old.toNat / 2 % 64 = 64 + old.toNat / 2 % 64 := (Nat.two_pow_add_eq_or_of_lt hdays 1).symm
      simp [Nat.shiftRight_eq_div_pow, Nat.and_two_pow_sub_one_eq_mod _ 6, Nat.or_comm _ 64, hnew, Nat.add_comm]

/-- Settles O51: `ST.WARMSH` has one way to end, with `warmshift` of `B` in `Q`. -/
theorem warmShiftInsertsTheVote : Obligations.WarmShiftInsertsTheVote := by
  intro s w
  have hw : w = s.warmVote.toNat := (Bool.cond_decide _ _ _).symm
  have hq : (warmshift s.b s.warmVote).setWidth 16 =
      BitVec.ofNat 16 (if s.b = 0xFF then 127 * w else s.b.toNat / 2 % 64 + 64 * w) := by
    rw [hw, ← toNat_warmshift, BitVec.ofNat_toNat]
  rw [← hq]
  exact exec_of_success .stWarmsh

/-! ## A history byte read (42_history.md R187) -/

/-- Settles O53, by the two ways `ST.GET` can end. -/
theorem getReadsOneHistoryByte : Obligations.GetReadsOneHistoryByte := by
  intro s
  exact ⟨fun ⟨hhour, hset⟩ => exec_of_success (.stGet hhour hset), fun hbad => exec_of_inval (.stGetInval hbad)⟩

/-! ## The hourly commit (42_history.md R180) -/

theorem ne_byteFF_iff {v : Byte} : v ≠ 0xFF ↔ v.toNat ≤ 254 := by
  have hlt : v.toNat < 256 := v.isLt
  rw [Ne, ← BitVec.toNat_inj]
  change ¬ v.toNat = 255 ↔ v.toNat ≤ 254
  omega

theorem slot_eq_iff {p : Params} {set set' h : Nat} : slot p set h = slot p set' h ↔ set = set' := by
  unfold slot
  omega

/-- The light level is clamped to what is not the sentinel (42_history.md R177). -/
theorem toNat_alclamp (v : Byte) : (alclamp v).toNat = min v.toNat 0xFE := by
  unfold alclamp
  split
  next h => rw [h]; rfl
  next h => exact (min_eq_left (ne_byteFF_iff.1 h)).symm

/-- A compressed temperature fits a byte (41_compander.md R153 (c)). -/
theorem toNat_ofNat_compress {p : Params} (hp : p.wf) (t : Int) :
    (BitVec.ofNat 8 (compress p t)).toNat = compress p t := by
  have h254 := (compress_le_ceilAfter hp t).trans (ceilAfter_le hp)
  rw [BitVec.toNat_ofNat, Nat.mod_eq_of_lt (by omega)]

/-! ### One quantity -/

/-- What a smoothed slot holding `old` holds after a commit of `code`. -/
def smoothedByte (p : Params) (old code sample : Byte) : Byte :=
  if old = 0xFF then code
  else BitVec.ofNat 8 (smooth p old.toNat code.toNat (sample.toNat % 2 ^ p.smoothShift))

theorem toNat_smoothedByte (p : Params) (old code sample : Byte) :
    (smoothedByte p old code sample).toNat =
      if old = 0xFF then code.toNat
      else smooth p old.toNat code.toNat (sample.toNat % 2 ^ p.smoothShift) := by
  unfold smoothedByte
  split
  next => rfl
  next =>
    rw [BitVec.toNat_ofNat]
    exact Nat.mod_eq_of_lt (smooth_lt_byte old.isLt code.isLt (Nat.mod_lt _ (Nat.two_pow_pos _)))

/-- Smoothing does not give the sentinel (42_history.md R173 (c)). -/
theorem smoothedByte_ne_FF {p : Params} {old code sample : Byte} (hcode : code ≠ 0xFF) :
    smoothedByte p old code sample ≠ 0xFF := by
  rw [ne_byteFF_iff, toNat_smoothedByte]
  split
  next => exact ne_byteFF_iff.1 hcode
  next hold => exact smooth_le (ne_byteFF_iff.1 hold) (ne_byteFF_iff.1 hcode) (Nat.mod_lt _ (Nat.two_pow_pos _))

/-- How many samples a commit takes for the smoothed set `set`: one, if its slot is set. -/
def samplesFor (set : Nat) (s : State) : Nat := (decide (nvRead s (slot s.params set s.hour) ≠ 0xFF)).toNat

theorem samplesFor_of_unset {set : Nat} {s : State} (h : nvRead s (slot s.params set s.hour) = 0xFF) :
    samplesFor set s = 0 := by
  simp [samplesFor, h]

theorem samplesFor_of_set {set : Nat} {s : State} (h : nvRead s (slot s.params set s.hour) ≠ 0xFF) :
    samplesFor set s = 1 := by
  rw [samplesFor, decide_eq_true h, Bool.toNat_true]

/-- One quantity of a commit as its two store writes, with the samples taken between them. -/
theorem commitQuantity_eq_writes {s : State} (hs : Memory.wf 65536 (some byteFF) s.nv) (set : Nat) (code : Byte) :
    commitQuantity set code s =
      (nvUpdate (slot s.params (set + 1) s.hour)
        (smoothedByte s.params (nvRead s (slot s.params (set + 1) s.hour)) code (sampleAt s 0))
        { (nvUpdate (slot s.params set s.hour) code s).1 with
          rndIn := s.rndIn.drop (samplesFor (set + 1) s), rndTaken := s.rndTaken + samplesFor (set + 1) s }).1 := by
  have hold : nvRead (nvUpdate (slot s.params set s.hour) code s).1 (slot s.params (set + 1) s.hour) =
      nvRead s (slot s.params (set + 1) s.hour) := by
    rw [nvRead_nvUpdate hs, if_neg (mt slot_eq_iff.1 (Nat.succ_ne_self set))]
  obtain ⟨hunset, h⟩ | ⟨hset, h⟩ := commitQuantity_cases set code s
  · rw [hold] at hunset
    rw [h, smoothedByte, if_pos hunset, samplesFor_of_unset hunset, nvUpdate_eq (slot s.params set s.hour)]
    rfl
  · rw [hold] at hset
    rw [h, smoothedByte, if_neg hset, samplesFor_of_set hset, hold, drawBits_eq, drawBits_fst,
      nvUpdate_eq (slot s.params set s.hour), List.drop_one]
    rfl

section Quantity

variable {s : State} (hs : Memory.wf 65536 (some byteFF) s.nv) {set : Nat} (code : Byte)

include hs

/-- One quantity of a commit writes its last slot and its smoothed slot, and nothing else of the store. -/
theorem nvRead_commitQuantity (hp : s.params.wf) (hhour : s.hour < 24) (hset : set < 5) (a : Nat) :
    nvRead (commitQuantity set code s) a =
      if a = slot s.params (set + 1) s.hour then
        smoothedByte s.params (nvRead s (slot s.params (set + 1) s.hour)) code (sampleAt s 0)
      else if a = slot s.params set s.hour then code
      else nvRead s a := by
  have hwf := nvUpdate_wf hs (slot_lt hp hset hhour) code
  rw [commitQuantity_eq_writes hs, nvRead_nvUpdate (by exact hwf)]
  exact if_congr Iff.rfl rfl (nvRead_nvUpdate hs _ _ _)

/-- One quantity of a commit takes a sample if its smoothed slot was set, and changes nothing outside the store. -/
theorem commitQuantity_frame :
    commitQuantity set code s =
      { s with
        nv := (commitQuantity set code s).nv
        rndIn := s.rndIn.drop (samplesFor (set + 1) s), rndTaken := s.rndTaken + samplesFor (set + 1) s } := by
  rw [commitQuantity_eq_writes hs, nvUpdate_eq, nvUpdate_eq (slot s.params set s.hour)]

end Quantity

/-- Samples taken are the first of those to come. -/
theorem sampleAt_drop {s t : State} {d : Nat} (hin : t.rndIn = s.rndIn.drop d) (htaken : t.rndTaken = s.rndTaken + d)
    (n : Nat) : sampleAt t n = sampleAt s (d + n) := by
  simp only [sampleAt, List.getD_eq_getElem?_getD, hin, htaken, List.getElem?_drop, Nat.add_assoc]

@[simp] theorem commitQuantity_warmVote (set : Nat) (code : Byte) (s : State) :
    (commitQuantity set code s).warmVote = s.warmVote := by
  rw [commitQuantity_eq]; rfl

/-! ### The three parts of a commit -/

/-- The code of the temperature in `A`. -/
def temperatureCode (s : State) : Byte := BitVec.ofNat 8 (compress s.params s.temperature)

/-- The state between the two quantities of a commit. -/
def temperatureCommitted (s : State) : State := commitQuantity 0 (temperatureCode s) s

/-- The state before the bitmap of a commit. -/
def lightCommitted (s : State) : State := commitQuantity 2 (alclamp s.b) (temperatureCommitted s)

theorem committed_eq_bitmap (s : State) : committed s = commitBitmap (lightCommitted s) := rfl

@[simp] theorem temperatureCommitted_params (s : State) : (temperatureCommitted s).params = s.params :=
  commitQuantity_params _ _ _

@[simp] theorem temperatureCommitted_hour (s : State) : (temperatureCommitted s).hour = s.hour :=
  commitQuantity_hour _ _ _

@[simp] theorem lightCommitted_params (s : State) : (lightCommitted s).params = s.params := by
  simp [lightCommitted]

@[simp] theorem lightCommitted_hour (s : State) : (lightCommitted s).hour = s.hour := by
  simp [lightCommitted]

@[simp] theorem lightCommitted_warmVote (s : State) : (lightCommitted s).warmVote = s.warmVote := by
  simp [lightCommitted, temperatureCommitted]

theorem commitBitmap_frame (s : State) : commitBitmap s = { s with nv := (commitBitmap s).nv } :=
  nvUpdate_eq _ _ _

/-- What a commit leaves in the slot of each set at its hour; the second sample is the one after the temperature's. -/
def committedByte (s : State) : Nat → Byte
  | 0 => temperatureCode s
  | 1 => smoothedByte s.params (nvRead s (slot s.params 1 s.hour)) (temperatureCode s) (sampleAt s 0)
  | 2 => alclamp s.b
  | 3 => smoothedByte s.params (nvRead s (slot s.params 3 s.hour)) (alclamp s.b) (sampleAt s (samplesFor 1 s))
  | _ => warmshift (nvRead s (slot s.params 4 s.hour)) s.warmVote

section Commit

variable {s : State} (hs : Memory.wf 65536 (some byteFF) s.nv) (hp : s.params.wf) (hhour : s.hour < 24)

include hs

/-- The light's sample is the one after the temperature's. -/
theorem sampleAt_temperatureCommitted : sampleAt (temperatureCommitted s) 0 = sampleAt s (samplesFor 1 s) := by
  have hframe := commitQuantity_frame (set := 0) hs (temperatureCode s)
  exact sampleAt_drop (congrArg State.rndIn hframe) (congrArg State.rndTaken hframe) 0

include hp hhour

theorem temperatureCommitted_wf : Memory.wf 65536 (some byteFF) (temperatureCommitted s).nv :=
  commitQuantity_wf hs hp hhour (by decide) _

theorem lightCommitted_wf : Memory.wf 65536 (some byteFF) (lightCommitted s).nv :=
  commitQuantity_wf (temperatureCommitted_wf hs hp hhour) (by simpa using hp) (by simpa using hhour) (by decide) _

theorem nvRead_temperatureCommitted (a : Nat) :
    nvRead (temperatureCommitted s) a =
      if a = slot s.params 1 s.hour then committedByte s 1
      else if a = slot s.params 0 s.hour then committedByte s 0
      else nvRead s a :=
  nvRead_commitQuantity hs _ hp hhour (by decide) a

/-- The temperature leaves the slots of the other quantities. -/
theorem nvRead_temperatureCommitted_slot {set : Nat} (h2 : 2 ≤ set) :
    nvRead (temperatureCommitted s) (slot s.params set s.hour) = nvRead s (slot s.params set s.hour) := by
  rw [nvRead_temperatureCommitted hs hp hhour, if_neg (mt slot_eq_iff.1 (by omega)),
    if_neg (mt slot_eq_iff.1 (by omega))]

theorem samplesFor_temperatureCommitted : samplesFor 3 (temperatureCommitted s) = samplesFor 3 s := by
  simp only [samplesFor, temperatureCommitted_params, temperatureCommitted_hour,
    nvRead_temperatureCommitted_slot hs hp hhour (show 2 ≤ 3 by decide)]

theorem nvRead_lightCommitted (a : Nat) :
    nvRead (lightCommitted s) a =
      if a = slot s.params 3 s.hour then committedByte s 3
      else if a = slot s.params 2 s.hour then committedByte s 2
      else nvRead (temperatureCommitted s) a := by
  have hread := nvRead_commitQuantity (temperatureCommitted_wf hs hp hhour) (alclamp s.b) (by simpa using hp)
    (by simpa using hhour) (show 2 < 5 by decide) a
  rwa [temperatureCommitted_params, temperatureCommitted_hour, sampleAt_temperatureCommitted hs,
    nvRead_temperatureCommitted_slot hs hp hhour (by decide)] at hread

/-- A commit writes the five bytes of its hour, and nothing else of the store. -/
theorem nvRead_committed (a : Nat) :
    nvRead (committed s) a =
      if a = slot s.params 4 s.hour then committedByte s 4
      else if a = slot s.params 3 s.hour then committedByte s 3
      else if a = slot s.params 2 s.hour then committedByte s 2
      else if a = slot s.params 1 s.hour then committedByte s 1
      else if a = slot s.params 0 s.hour then committedByte s 0
      else nvRead s a := by
  have hbitmap : nvRead (lightCommitted s) (slot s.params 4 s.hour) = nvRead s (slot s.params 4 s.hour) := by
    rw [nvRead_lightCommitted hs hp hhour, if_neg (mt slot_eq_iff.1 (by decide)), if_neg (mt slot_eq_iff.1 (by decide)),
      nvRead_temperatureCommitted_slot hs hp hhour (by decide)]
  have hread := nvRead_nvUpdate (lightCommitted_wf hs hp hhour) (slot s.params 4 s.hour) a (committedByte s 4)
  rw [nvRead_lightCommitted hs hp hhour a, nvRead_temperatureCommitted hs hp hhour a] at hread
  rw [committed_eq_bitmap, commitBitmap, lightCommitted_params, lightCommitted_hour, hbitmap, lightCommitted_warmVote]
  exact hread

/-- A commit takes the samples of both smoothed slots. -/
theorem committed_samples :
    (committed s).rndIn = s.rndIn.drop (samplesFor 1 s + samplesFor 3 s) ∧
      (committed s).rndTaken = s.rndTaken + (samplesFor 1 s + samplesFor 3 s) := by
  have htemp := commitQuantity_frame (set := 0) hs (temperatureCode s)
  have hlight := commitQuantity_frame (set := 2) (temperatureCommitted_wf hs hp hhour) (alclamp s.b)
  rw [samplesFor_temperatureCommitted hs hp hhour] at hlight
  rw [committed_eq_bitmap, commitBitmap_frame, lightCommitted, hlight, temperatureCommitted]
  exact ⟨by rw [htemp]; exact List.drop_drop, by rw [htemp]; exact Nat.add_assoc _ _ _⟩

/-- Each slot of the hour, after a commit. -/
theorem nvRead_committed_slot {set : Nat} (hset : set < 5) :
    nvRead (committed s) (slot s.params set s.hour) = committedByte s set := by
  rw [nvRead_committed hs hp hhour]
  interval_cases set <;> simp [slot_eq_iff]

/-- Every other byte, after a commit. -/
theorem nvRead_committed_of_ne {a : Nat} (ha : ∀ set < 5, a ≠ slot s.params set s.hour) :
    nvRead (committed s) a = nvRead s a := by
  rw [nvRead_committed hs hp hhour, if_neg (ha 4 (by decide)), if_neg (ha 3 (by decide)), if_neg (ha 2 (by decide)),
    if_neg (ha 1 (by decide)), if_neg (ha 0 (by decide))]

end Commit

/-- `ST.COMMIT` for an hour there is, on a good store. -/
theorem exec_stCommit {s : State} (hs : Memory.wf 65536 (some byteFF) s.nv) (hp : s.params.wf) (hhour : s.hour < 24) :
    ∃ t, exec .stCommit s = .next t ∧
      t = { s with
        cmd := 0x52, nv := t.nv, status := 0x01
        rndIn := s.rndIn.drop (samplesFor 1 s + samplesFor 3 s)
        rndTaken := s.rndTaken + (samplesFor 1 s + samplesFor 3 s) } ∧
      (∀ set < 5, nvRead t (slot s.params set s.hour) = committedByte s set) ∧
      ∀ a, (∀ set < 5, a ≠ slot s.params set s.hour) → nvRead t a = nvRead s a := by
  have heffect := CommandEffect.stCommit (s := { s with cmd := encodeOpcode .stCommit }) hhour
  have hslot {set : Nat} :=
    nvRead_committed_slot (s := { s with cmd := encodeOpcode .stCommit }) hs hp hhour (set := set)
  have hother {a : Nat} := nvRead_committed_of_ne (s := { s with cmd := encodeOpcode .stCommit }) hs hp hhour (a := a)
  obtain ⟨hin, htaken⟩ := committed_samples (s := { s with cmd := encodeOpcode .stCommit }) hs hp hhour
  rw [hin, htaken] at heffect
  generalize committed { s with cmd := encodeOpcode .stCommit } = c at heffect hslot hother
  have hread {t : State} (h : t.nv = c.nv) (a : Nat) : nvRead t a = nvRead c a := sameNv_of_eq h a
  exact ⟨_, exec_of_success heffect, rfl, fun set hset => (hread rfl _).trans (hslot hset),
    fun a ha => (hread rfl a).trans (hother ha)⟩

/-- Settles O52: the five slots hold what `committedByte` says, as numbers. -/
theorem commitWritesFiveBytesOfTheHour : Obligations.CommitWritesFiveBytesOfTheHour := by
  intro s hs at' k ct ca w set1 set3 fold
  obtain ⟨-, hnv, hp, -⟩ := hs
  refine ⟨fun hhour => ?_, fun hhour => exec_of_inval (.stCommitInval hhour)⟩
  obtain ⟨t, hexec, ht, hslot, hother⟩ := exec_stCommit hnv hp hhour
  have hct : (temperatureCode s).toNat = ct := toNat_ofNat_compress hp s.a.toInt
  have hca : (alclamp s.b).toNat = ca := toNat_alclamp s.b
  have hfold (old code : Byte) (n : Nat) : (smoothedByte s.params old code (sampleAt s n)).toNat =
      if decide (old ≠ 0xFF) then fold old.toNat code.toNat n else code.toNat := by
    rw [toNat_smoothedByte, smooth_eq]
    simp only [decide_eq_true_eq, ite_not]
    rfl
  refine ⟨t, hexec, ht, ?_, ?_, ?_, ?_, hslot 4 (by decide), hother⟩
  · exact (congrArg BitVec.toNat (hslot 0 (by decide))).trans hct
  · exact (congrArg BitVec.toNat (hslot 1 (by decide))).trans (hct ▸ hfold _ _ _)
  · exact (congrArg BitVec.toNat (hslot 2 (by decide))).trans hca
  · exact (congrArg BitVec.toNat (hslot 3 (by decide))).trans (hca ▸ hfold _ _ _)

/-! ## Erase within a budget (42_history.md R190) -/

/-- The erase loop with `k` of its budget left: it erases the first `k` set bytes, counts them, and reaches the end
exactly when there are no more. -/
theorem zapLoop_erases_first {budget n k : Nat} {as : List Nat} {s : State} (hbudget : n + k = budget)
    (hs : Memory.wf 65536 (some byteFF) s.nv) (has : ∀ a ∈ as, a < 65536) (hnodup : as.Nodup) :
    let used := as.filter fun a => nvRead s a ≠ 0xFF
    (zapLoop budget as n s).2 = (n + min k used.length, decide (used.length ≤ k)) ∧
      ∀ a, nvRead (zapLoop budget as n s).1 a = if a ∈ used.take k then 0xFF else nvRead s a := by
  induction as generalizing n k s with
  | nil => simp [zapLoop]
  | cons x as ih =>
    obtain ⟨hx, hrest⟩ := List.forall_mem_cons.1 has
    obtain ⟨hnotmem, hnodup⟩ := List.nodup_cons.1 hnodup
    intro used
    unfold zapLoop
    by_cases hunset : nvRead s x = byteFF
    · have hused : used = as.filter fun a => nvRead s a ≠ 0xFF := List.filter_cons_of_neg (by simpa using hunset)
      rw [if_pos hunset, hused]
      exact ih hbudget hs hrest hnodup
    · have hused : used = x :: as.filter fun a => nvRead s a ≠ 0xFF :=
        List.filter_cons_of_pos (by simpa using hunset)
      rw [if_neg hunset, hused]
      cases k with
      | zero => simp [show n = budget from hbudget]
      | succ k =>
        have herased (a : Nat) := nvRead_nvErase hs x a
        have hsame : (as.filter fun a => nvRead (nvErase x s).1 a ≠ 0xFF) = as.filter fun a => nvRead s a ≠ 0xFF :=
          List.filter_congr fun a ha => by rw [herased, if_neg (ne_of_mem_of_not_mem ha hnotmem)]
        obtain ⟨hcount, hread⟩ := ih (n := n + 1) (k := k) (by omega) (nvErase_wf hs hx) hrest hnodup
        rw [hsame] at hcount hread
        rw [if_neg (by omega)]
        refine ⟨?_, fun a => ?_⟩
        · rw [hcount, List.length_cons, Nat.add_min_add_right]
          simp only [Nat.add_le_add_iff_right, Nat.add_assoc, Nat.add_comm 1]
        · rw [hread, herased, List.take_succ_cons]
          simp only [List.mem_cons]
          by_cases hax : a = x <;> simp [hax]

/-- The addresses of the region whose byte is set, ascending. -/
def setBytes (s : State) : List Nat := (regionAddresses s.params).filter fun a => nvRead s a ≠ 0xFF

theorem mem_setBytes {s : State} {a : Nat} :
    a ∈ setBytes s ↔ a ∈ regionAddresses s.params ∧ nvRead s a ≠ 0xFF := by
  simp [setBytes]

theorem setBytes_eq_nil_iff {s : State} :
    setBytes s = [] ↔ ∀ a ∈ regionAddresses s.params, nvRead s a = 0xFF := by
  simp [setBytes]

theorem length_setBytes_le (s : State) : (setBytes s).length ≤ 120 :=
  (List.length_filter_le _ _).trans (by simp [regionAddresses])

theorem nodup_regionAddresses (p : Params) : (regionAddresses p).Nodup := List.nodup_range'

/-- `ST.ZAP` has one way to end: the first set bytes of the region erased and counted, and `FIN` when there are no
more. -/
theorem stZap_effect {s : State} (hs : Memory.wf 65536 (some byteFF) s.nv) (hp : s.params.wf) :
    ∃ t, CommandEffect s .stZap (.ok (decide ((setBytes s).length ≤ s.budget))) t ∧
      t = { s with nv := t.nv, q := BitVec.ofNat 16 (min s.budget (setBytes s).length) } ∧
      ∀ a, nvRead t a = if a ∈ (setBytes s).take s.budget then 0xFF else nvRead s a := by
  obtain ⟨hcount, hread⟩ := zapLoop_erases_first (Nat.zero_add s.budget) hs (mem_regionAddresses_lt hp)
    (nodup_regionAddresses s.params)
  rw [Nat.zero_add] at hcount
  exact ⟨_, .stZap (Prod.ext rfl hcount), rfl, hread⟩

theorem exec_stZap {s : State} (hs : Inv s) :
    ∃ t, exec .stZap s = .next t ∧
      t = { s with
        cmd := 0x54, nv := t.nv, q := BitVec.ofNat 16 (min s.a.toNat (setBytes s).length)
        status := if (setBytes s).length ≤ s.a.toNat then 0x03 else 0x01 } ∧
      ∀ a, nvRead t a = if a ∈ (setBytes s).take s.a.toNat then 0xFF else nvRead s a := by
  obtain ⟨-, hnv, hp, -⟩ := hs
  obtain ⟨u, heffect, hu, hread⟩ := stZap_effect (s := { s with cmd := encodeOpcode .stZap }) hnv hp
  have hexec := exec_of_ok heffect
  simp only [decide_eq_true_eq] at hexec
  refine ⟨_, hexec, ?_, hread⟩
  rw [hu]
  rfl

/-- Without its first elements, a list that repeats nothing is its rest. -/
theorem filter_not_mem_take {α : Type} [DecidableEq α] {l : List α} (hl : l.Nodup) (k : Nat) :
    l.filter (fun a => a ∉ l.take k) = l.drop k := by
  have hfirst : (l.take k).filter (fun a => a ∉ l.take k) = [] := by simp
  have hrest : (l.drop k).filter (fun a => a ∉ l.take k) = l.drop k :=
    List.filter_eq_self.2 fun a ha => by simpa using fun hk => List.disjoint_take_drop hl le_rfl hk ha
  calc l.filter (fun a => a ∉ l.take k)
    _ = (l.take k ++ l.drop k).filter (fun a => a ∉ l.take k) := by rw [List.take_append_drop]
    _ = l.drop k := by rw [List.filter_append, hfirst, hrest, List.nil_append]

theorem nodup_setBytes (s : State) : (setBytes s).Nodup := (nodup_regionAddresses _).filter _

/-- What a run with budget `k` leaves set of the region: all but the first `k` of the bytes that were. -/
theorem setBytes_eq_drop {s t : State} (hp : t.params = s.params) {k : Nat}
    (hread : ∀ a, nvRead t a = if a ∈ (setBytes s).take k then 0xFF else nvRead s a) :
    setBytes t = (setBytes s).drop k := by
  rw [← filter_not_mem_take (nodup_setBytes s)]
  unfold setBytes at hread ⊢
  rw [hp, List.filter_filter]
  exact List.filter_congr fun a _ => by simp [hread]

/-- A run of `ST.ZAP` as its repetition sees it. -/
theorem stZap_leaves {s t : State} (hs : Inv s) (h : exec .stZap s = .next t) :
    t.params = s.params ∧ t.a = s.a ∧ setBytes t = (setBytes s).drop s.a.toNat ∧
      t.status = if (setBytes s).length ≤ s.a.toNat then 0x03 else 0x01 := by
  obtain ⟨u, hexec, hu, hread⟩ := exec_stZap hs
  obtain rfl := Host.Outcome.next.inj (h.symm.trans hexec)
  have hp : t.params = s.params := by rw [hu]
  exact ⟨hp, by rw [hu], setBytes_eq_drop hp hread, by rw [hu]⟩

/-- `STATUS.FIN` of the two values `ST.ZAP` leaves (10_state.md R32). -/
theorem fin_iff_of_status {t : State} {p : Prop} [Decidable p] (h : t.status = if p then 0x03 else 0x01) :
    t.fin = true ↔ p := by
  unfold State.fin
  by_cases hp : p <;> simp [h, hp]

/-- Settles O54: the loop erases the first set bytes, and the region is all unset when there were no more. -/
theorem zapErasesWithinTheBudget : Obligations.ZapErasesWithinTheBudget := by
  intro s hs region used n
  obtain ⟨t, hexec, ht, hread⟩ := exec_stZap hs
  obtain ⟨hp, -, hleft, hstatus⟩ := stZap_leaves hs hexec
  have htake : used.take n = (setBytes s).take s.a.toNat := List.take_eq_take_min.symm
  have hunset : setBytes t = [] ↔ ∀ a ∈ region, nvRead t a = 0xFF := by rw [setBytes_eq_nil_iff, hp]; rfl
  refine ⟨t, hexec, ht, htake ▸ hread, ?_⟩
  rw [fin_iff_of_status hstatus, ← hunset, hleft, List.drop_eq_nil_iff]

/-! ## The erase repeated (42_history.md R191) -/

theorem repeatCmd_succ {o : Opcode} {s t : State} (h : exec o.instr s = .next t) (n : Nat) :
    repeatCmd o (n + 1) s = repeatCmd o n t := by
  simp only [repeatCmd, h]

/-- Runs of `ST.ZAP`, at least one, whose budgets add up to the number of set bytes: each run takes its budget off that
number, and the last finds no more than it can erase. -/
theorem repeat_stZap {n : Nat} {s : State} (hs : Inv s) (hbudget : (setBytes s).length ≤ (n + 1) * s.a.toNat) :
    ∃ t, repeatCmd .stZap (n + 1) s = .next t ∧ t.status = 0x03 ∧ t.params = s.params ∧ setBytes t = [] := by
  induction n generalizing s with
  | zero =>
    obtain ⟨t, hexec, -⟩ := exec_stZap hs
    obtain ⟨hp, -, hleft, hstatus⟩ := stZap_leaves hs hexec
    rw [Nat.zero_add, Nat.one_mul] at hbudget
    rw [if_pos hbudget] at hstatus
    rw [List.drop_eq_nil_of_le hbudget] at hleft
    exact ⟨t, repeatCmd_succ (o := .stZap) hexec 0, hstatus, hp, hleft⟩
  | succ n ih =>
    obtain ⟨u, hexec, -⟩ := exec_stZap hs
    obtain ⟨hp, ha, hleft, -⟩ := stZap_leaves hs hexec
    have hbudget' : (setBytes u).length ≤ (n + 1) * u.a.toNat := by
      rw [hleft, List.length_drop, ha]
      rw [Nat.succ_mul] at hbudget
      omega
    obtain ⟨t, hrepeat, hstatus, hp', hnil⟩ := ih (command_keeps_inv (o := .stZap) hs hexec) hbudget'
    exact ⟨t, (repeatCmd_succ (o := .stZap) hexec (n + 1)).trans hrepeat, hstatus, hp'.trans hp, hnil⟩

theorem slot_mem_regionAddresses (p : Params) {set h : Nat} (hset : set < 5) (hh : h < 24) :
    slot p set h ∈ regionAddresses p := by
  simp only [slot, regionAddresses, List.mem_range'_1]
  omega

/-- Settles O55: at most 120 bytes are set at first. -/
theorem repeatedZapUnsetsTheRegion : Obligations.RepeatedZapUnsetsTheRegion := by
  intro s n hs hbudget
  obtain _ | n := n
  · omega
  · obtain ⟨t, hrepeat, hstatus, hp, hnil⟩ := repeat_stZap hs ((length_setBytes_le s).trans hbudget)
    refine ⟨t, hrepeat, hstatus, fun set hset h hh => setBytes_eq_nil_iff.1 hnil _ ?_⟩
    rw [hp]
    exact slot_mem_regionAddresses s.params hset hh

/-! ## What the other commands leave of the store (42_history.md R191) -/

theorem warmshift_ne_FF (old : Byte) (w : Bool) : warmshift old w ≠ 0xFF := by
  intro h
  have hbit := warmshift_getLsbD_seven old w
  rw [h] at hbit
  exact absurd hbit (by decide)

/-- No byte a commit writes is the sentinel (70_reset_and_hazards.md R316). -/
theorem committedByte_ne_FF {s : State} (hp : s.params.wf) (set : Nat) : committedByte s set ≠ 0xFF := by
  have hcode : temperatureCode s ≠ 0xFF := by
    rw [ne_byteFF_iff, temperatureCode, toNat_ofNat_compress hp]
    exact (compress_le_ceilAfter hp _).trans (ceilAfter_le hp)
  have hlight : alclamp s.b ≠ 0xFF := by
    rw [ne_byteFF_iff, toNat_alclamp]
    exact min_le_right _ _
  match set with
  | 0 => exact hcode
  | 1 => exact smoothedByte_ne_FF hcode
  | 2 => exact hlight
  | 3 => exact smoothedByte_ne_FF hlight
  | _ + 4 => exact warmshift_ne_FF _ _

/-- A commit turns no store byte into `0xFF` and writes inside the region only. -/
theorem stCommit_keeps {s t : State} (hs : Inv s) (h : exec .stCommit s = .next t) (a : Nat) :
    (nvRead t a = 0xFF → nvRead s a = 0xFF) ∧ (a ∉ regionAddresses s.params → nvRead t a = nvRead s a) := by
  obtain ⟨-, hnv, hp, -⟩ := hs
  by_cases hhour : s.hour < 24
  · obtain ⟨u, hexec, -, hslot, hother⟩ := exec_stCommit hnv hp hhour
    obtain rfl := Host.Outcome.next.inj (h.symm.trans hexec)
    refine ⟨fun hFF => ?_, fun ha => hother a fun set hset => ?_⟩
    · by_cases ha : ∃ set < 5, a = slot s.params set s.hour
      · obtain ⟨set, hset, rfl⟩ := ha
        rw [hslot set hset] at hFF
        exact absurd hFF (committedByte_ne_FF hp set)
      · rwa [← hother a fun set hset heq => ha ⟨set, hset, heq⟩]
    · exact (ne_of_mem_of_not_mem (slot_mem_regionAddresses s.params hset hhour) ha).symm
  · have hexec : exec .stCommit s = .next { s with cmd := 0x52, status := 0x10 } :=
      exec_of_inval (.stCommitInval (Nat.not_lt.1 hhour))
    obtain rfl := Host.Outcome.next.inj (h.symm.trans hexec)
    exact ⟨id, fun _ => rfl⟩

/-- `ST.ZAP` erases inside the region only. -/
theorem stZap_keeps {s t : State} (hs : Inv s) (h : exec .stZap s = .next t) {a : Nat}
    (ha : a ∉ regionAddresses s.params) : nvRead t a = nvRead s a := by
  obtain ⟨u, hexec, -, hread⟩ := exec_stZap hs
  obtain rfl := Host.Outcome.next.inj (h.symm.trans hexec)
  rw [hread, if_neg fun hmem => ha (mem_setBytes.1 (List.mem_of_mem_take hmem)).1]

/-- Settles O56: of the two commands that write the store, a commit writes no `0xFF`, and both keep to the region. -/
theorem onlyZapUnsetsAHistoryByte : Obligations.OnlyZapUnsetsAHistoryByte := by
  intro o s t a hs h
  have houtside (ha : a < s.params.statsBase ∨ s.params.statsBase + 120 ≤ a) : a ∉ regionAddresses s.params := by
    simp only [regionAddresses, List.mem_range'_1]
    omega
  by_cases hzap : o = .stZap
  · subst hzap
    exact ⟨fun hne => absurd rfl hne, fun ha => stZap_keeps hs h (houtside ha)⟩
  · by_cases hcommit : o = .stCommit
    · subst hcommit
      obtain ⟨hFF, hframe⟩ := stCommit_keeps hs h a
      exact ⟨fun _ => hFF, fun ha => hframe (houtside ha)⟩
    · obtain ⟨-, -, -, -, -, -, -, -, hsame, -⟩ := commandsWriteOnlyTheirOwnRegisters o s t h
      have hread := hsame (by simp [hzap, hcommit]) a
      exact ⟨fun _ hFF => hread ▸ hFF, fun _ => hread⟩

end Sys2Proof.Proofs

/-! PROOFS. The CRC-7 routine and its two commands (43_crc7.md). One bit step is a shift and, when the bit that leaves
differs from the data bit, the polynomial added: from that its arithmetic form, its linearity and its reading modulo the
polynomial, each carried over a byte and a message by the folds of R201 and R202. -/

namespace Sys2Proof.Proofs

open Sys2Proof.Machine

/-! ## One bit step (43_crc7.md R201) -/

/-- What a bit step adds to the shifted register: the polynomial, or nothing. -/
def crcFeedback (b : Bool) : Crc7 := if b then 0x37 else 0

theorem crcFeedback_xor (a b : Bool) : crcFeedback (a ^^ b) = crcFeedback a ^^^ crcFeedback b := by
  cases a <;> cases b <;> decide

theorem crc7Bit_eq (c : Crc7) (x : Bool) : crc7Bit c x = c <<< 1 ^^^ crcFeedback (c.getLsbD 6 ^^ x) := by
  rw [crc7Bit, crcFeedback]
  split_ifs
  · rfl
  · exact BitVec.xor_zero.symm

/-- The bit that leaves the register, as R201's arithmetic has it. -/
theorem toNat_topBit (c : Crc7) : (c.getLsbD 6).toNat = c.toNat / 64 := by
  rw [BitVec.getLsbD, Nat.toNat_testBit]
  omega

theorem toNat_shiftLeft_one (c : Crc7) : (c <<< 1).toNat = c.toNat * 2 % 128 := by
  simp [BitVec.toNat_shiftLeft, Nat.shiftLeft_eq]

theorem toNat_crc7Bit (c : Crc7) (x : Bool) :
    (crc7Bit c x).toNat =
      if c.toNat / 64 = x.toNat then c.toNat * 2 % 128 else (c.toNat * 2 % 128) ^^^ 0x37 := by
  have hdiff : (c.getLsbD 6 ^^ x) = true ↔ c.toNat / 64 ≠ x.toNat := by
    rw [← toNat_topBit]
    cases c.getLsbD 6 <;> cases x <;> decide
  by_cases h : c.toNat / 64 = x.toNat
  · rw [crc7Bit, if_neg (mt hdiff.1 (not_not.2 h)), if_pos h, toNat_shiftLeft_one]
  · rw [crc7Bit, if_pos (hdiff.2 h), if_neg h, BitVec.toNat_xor, toNat_shiftLeft_one]
    rfl

/-- The shift and the feedback are both linear over GF(2). -/
theorem crc7Bit_xor (c₁ c₂ : Crc7) (x₁ x₂ : Bool) :
    crc7Bit (c₁ ^^^ c₂) (x₁ ^^ x₂) = crc7Bit c₁ x₁ ^^^ crc7Bit c₂ x₂ := by
  have hbit : ((c₁ ^^^ c₂).getLsbD 6 ^^ (x₁ ^^ x₂)) = ((c₁.getLsbD 6 ^^ x₁) ^^ (c₂.getLsbD 6 ^^ x₂)) := by
    rw [BitVec.getLsbD_xor]
    simp only [Bool.xor_assoc, Bool.xor_left_comm]
  simp only [crc7Bit_eq, hbit, crcFeedback_xor, BitVec.shiftLeft_xor_distrib]
  ac_rfl

/-- The polynomial has the term `x^0`, so the bit step loses nothing of the register: only 0 steps to 0. -/
theorem eq_zero_of_crc7Bit_eq_zero : ∀ c : Crc7, crc7Bit c false = 0#7 → c = 0#7 := by decide

/-! ## One byte and one message (43_crc7.md R201, R202) -/

theorem crc7_nil (seed : Crc7) : crc7 seed [] = seed := rfl

theorem crc7_append (seed : Crc7) (m m' : List Byte) : crc7 seed (m ++ m') = crc7 (crc7 seed m) m' :=
  List.foldl_append

theorem crc7_cons (seed : Crc7) (d : Byte) (m : List Byte) : crc7 seed (d :: m) = crc7 (crc7Upd seed d) m := rfl

/-- The byte step is the fold of the bit step in the arithmetic of R201. -/
theorem toNat_crc7Upd (c : Crc7) (d : Byte) :
    (crc7Upd c d).toNat =
      [7, 6, 5, 4, 3, 2, 1, 0].foldl (fun (n i : Nat) =>
        if n / 64 = d.toNat / 2 ^ i % 2 then n * 2 % 128 else (n * 2 % 128) ^^^ 0x37) c.toNat := by
  refine (List.foldl_hom BitVec.toNat fun acc i => ?_).symm
  rw [toNat_crc7Bit, BitVec.getLsbD, Nat.toNat_testBit]

/-- R205 (b), over the bits of the byte. -/
theorem crc7Upd_xor (c₁ c₂ : Crc7) (d₁ d₂ : Byte) :
    crc7Upd (c₁ ^^^ c₂) (d₁ ^^^ d₂) = crc7Upd c₁ d₁ ^^^ crc7Upd c₂ d₂ :=
  List.foldl_hom₂ _ (· ^^^ ·) _ _ _ _ _ fun a₁ a₂ i => by rw [BitVec.getLsbD_xor, crc7Bit_xor]

/-- A fold whose every step is one to one is one to one in its start. -/
theorem foldl_injective {α β : Type} {f : α → β → α} (hf : ∀ b, Function.Injective (f · b)) :
    ∀ l : List β, Function.Injective (l.foldl f ·)
  | [] => Function.injective_id
  | b :: l => (foldl_injective hf l).comp (hf b)

/-- The difference of two registers steps as a register without data does. -/
theorem crc7Bit_injective (x : Bool) : Function.Injective (crc7Bit · x) := by
  intro c₁ c₂ (h : crc7Bit c₁ x = crc7Bit c₂ x)
  have hzero : crc7Bit (c₁ ^^^ c₂) false = 0#7 := by
    rw [← Bool.xor_self x, crc7Bit_xor, h, BitVec.xor_self]
  exact BitVec.xor_eq_zero_iff.1 (eq_zero_of_crc7Bit_eq_zero _ hzero)

/-- R205 (d): one to one for a fixed byte. -/
theorem crc7Upd_injective (d : Byte) : Function.Injective (crc7Upd · d) :=
  foldl_injective (fun i => crc7Bit_injective (d.getLsbD i)) _

/-- Two registers that differ still differ after the same message. -/
theorem crc7_injective (m : List Byte) : Function.Injective (crc7 · m) :=
  foldl_injective crc7Upd_injective m

/-- `x^(k+7)` is not 0 modulo the polynomial, for the eight bits of a byte. -/
theorem crc7Upd_twoPow_ne_zero : ∀ k < 8, crc7Upd 0#7 (BitVec.twoPow 8 k) ≠ 0#7 := by decide

/-- A byte with one bit flipped takes a register somewhere else. -/
theorem crc7Upd_flip_ne (c : Crc7) (d : Byte) {k : Nat} (hk : k < 8) :
    crc7Upd c (d ^^^ BitVec.twoPow 8 k) ≠ crc7Upd c d := by
  have hflip : crc7Upd c (d ^^^ BitVec.twoPow 8 k) = crc7Upd c d ^^^ crc7Upd 0#7 (BitVec.twoPow 8 k) := by
    rw [← crc7Upd_xor, BitVec.xor_zero]
  rw [hflip, Ne, xor_left_eq_self_iff]
  exact crc7Upd_twoPow_ne_zero k hk

/-! ## The CRC as a remainder (43_crc7.md R202) -/

section Remainder

open Polynomial

/-- `x^7 + x^5 + x^4 + x^2 + x + 1` (43_crc7.md R200). -/
noncomputable def crcPoly : (ZMod 2)[X] := X ^ 7 + X ^ 5 + X ^ 4 + X ^ 2 + X + 1

/-- A word read as a polynomial over GF(2), its bit `i` the coefficient of `x^i`. -/
noncomputable def bitsPoly {w : Nat} (v : BitVec w) : (ZMod 2)[X] :=
  ∑ i ∈ Finset.range w, if v.getLsbD i then X ^ i else 0

/-- A message read as a polynomial, first byte and top bit highest. -/
noncomputable def messagePoly (m : List Byte) : (ZMod 2)[X] := m.foldl (fun acc d => acc * X ^ 8 + bitsPoly d) 0

theorem messagePoly_concat (m : List Byte) (d : Byte) :
    messagePoly (m ++ [d]) = messagePoly m * X ^ 8 + bitsPoly d := by
  simp [messagePoly]

theorem bitsPoly_xor {w : Nat} (u v : BitVec w) : bitsPoly (u ^^^ v) = bitsPoly u + bitsPoly v := by
  rw [bitsPoly, bitsPoly, bitsPoly, ← Finset.sum_add_distrib]
  refine Finset.sum_congr rfl fun i _ => ?_
  rw [BitVec.getLsbD_xor]
  cases u.getLsbD i <;> cases v.getLsbD i <;> simp [CharTwo.add_self_eq_zero]

/-- A shift multiplies by `x` and drops the term of the bit that leaves. -/
theorem bitsPoly_shiftLeft_one (c : Crc7) :
    bitsPoly (c <<< 1) = X * bitsPoly c + if c.getLsbD 6 then X ^ 7 else 0 := by
  have hshift : ∀ i ∈ Finset.range 6, (if (c <<< 1).getLsbD (i + 1) then X ^ (i + 1) else 0 : (ZMod 2)[X])
      = X * if c.getLsbD i then X ^ i else 0 := by
    intro i hi
    have hi : i + 1 < 7 := Nat.succ_lt_succ (Finset.mem_range.1 hi)
    rw [BitVec.getLsbD_shiftLeft]
    simp [-BitVec.getLsbD_eq_getElem, hi, pow_succ']
  rw [bitsPoly, bitsPoly, Finset.sum_range_succ', Finset.sum_congr rfl hshift, ← Finset.mul_sum,
    Finset.sum_range_succ _ 6]
  cases c.getLsbD 6 <;> simp [mul_add, ← pow_succ', add_assoc, CharTwo.add_self_eq_zero]

theorem X_pow_seven_add_self : (X : (ZMod 2)[X]) ^ 7 + X ^ 7 = 0 := CharTwo.add_self_eq_zero _

/-- `0x37` is the polynomial without its top term (43_crc7.md R200). -/
theorem bitsPoly_crcFeedback (b : Bool) :
    bitsPoly (crcFeedback b) = if b then crcPoly + X ^ 7 else 0 := by
  cases b
  · simp [bitsPoly, crcFeedback]
  · have hbits : bitsPoly 0x37#7 = 1 + X + X ^ 2 + X ^ 4 + X ^ 5 := by simp [bitsPoly, Finset.sum_range_succ]
    change bitsPoly 0x37#7 = crcPoly + X ^ 7
    rw [hbits, crcPoly]
    linear_combination -X_pow_seven_add_self

/-- The bit that leaves comes back as its residue, which is what makes the feedback a reduction. -/
theorem bitsPoly_crc7Bit (c : Crc7) (x : Bool) :
    bitsPoly (crc7Bit c x) =
      X * bitsPoly c + (if x then X ^ 7 else 0) + if c.getLsbD 6 ^^ x then crcPoly else 0 := by
  rw [crc7Bit_eq, bitsPoly_xor, bitsPoly_shiftLeft_one, bitsPoly_crcFeedback]
  cases c.getLsbD 6 <;> cases x <;> simp only [Bool.xor_false, Bool.xor_true, Bool.not_false, Bool.not_true,
    Bool.false_eq_true, reduceIte]
  case true.false => linear_combination X_pow_seven_add_self
  all_goals ring

/-- A bit step multiplies by `x` and adds the data bit at `x^7`, modulo the polynomial. -/
theorem mk_crc7Bit (c : Crc7) (x : Bool) :
    AdjoinRoot.mk crcPoly (bitsPoly (crc7Bit c x)) =
      AdjoinRoot.mk crcPoly (X * bitsPoly c + if x then X ^ 7 else 0) := by
  rw [AdjoinRoot.mk_eq_mk, bitsPoly_crc7Bit, add_sub_cancel_left]
  split_ifs
  · exact dvd_rfl
  · exact dvd_zero _

/-- The bits `n - 1` down to 0 of a byte, folded in from the top: Horner's rule. -/
theorem mk_foldl_crc7Bit (d : Byte) (n : Nat) (c : Crc7) :
    AdjoinRoot.mk crcPoly (bitsPoly ((List.range n).reverse.foldl (fun acc i => crc7Bit acc (d.getLsbD i)) c)) =
      AdjoinRoot.mk crcPoly
        (X ^ n * bitsPoly c + X ^ 7 * ∑ i ∈ Finset.range n, if d.getLsbD i then X ^ i else 0) := by
  induction n generalizing c with
  | zero => simp
  | succ n ih =>
    have hstep := mk_crc7Bit c (d.getLsbD n)
    rw [List.range_succ, List.reverse_concat, List.foldl_cons, ih, Finset.sum_range_succ]
    simp only [map_add, map_mul, map_pow] at hstep ⊢
    rw [hstep]
    split_ifs <;> simp only [map_zero, map_pow] <;> ring

/-- The byte's positions in R201, 7 down to 0, are those of the fold for `n = 8`. -/
theorem mk_crc7Upd (c : Crc7) (d : Byte) :
    AdjoinRoot.mk crcPoly (bitsPoly (crc7Upd c d)) =
      AdjoinRoot.mk crcPoly (X ^ 8 * bitsPoly c + X ^ 7 * bitsPoly d) :=
  mk_foldl_crc7Bit d 8 c

/-- R202: modulo the polynomial, the CRC is the seed moved up by the message's length plus the message moved up by 7. -/
theorem mk_crc7 (seed : Crc7) (m : List Byte) :
    AdjoinRoot.mk crcPoly (bitsPoly (crc7 seed m)) =
      AdjoinRoot.mk crcPoly (bitsPoly seed * X ^ (8 * m.length) + messagePoly m * X ^ 7) := by
  induction m using List.reverseRecOn with
  | nil => simp [crc7_nil, messagePoly]
  | append_singleton m d ih =>
    rw [crc7_append, crc7_cons, crc7_nil, mk_crc7Upd, messagePoly_concat, List.length_append,
      List.length_singleton]
    simp only [map_add, map_mul, map_pow] at ih ⊢
    rw [ih]
    ring

/-- Settles O28: two polynomials with one residue differ by a multiple of the polynomial. -/
theorem crcIsThePolynomialRemainder : Obligations.CrcIsThePolynomialRemainder := by
  intro seed m
  obtain ⟨k, hk⟩ := AdjoinRoot.mk_eq_mk.1 (mk_crc7 seed m).symm
  exact ⟨k, by rw [mul_comm k]; exact sub_eq_iff_eq_add.1 hk⟩

end Remainder

/-- Settles O29: linear, and one to one for a fixed byte, as every bit step is. -/
theorem crcUpdateIsLinearAndOneToOne : Obligations.CrcUpdateIsLinearAndOneToOne :=
  ⟨crc7Upd_xor, fun _ _ d h => crc7Upd_injective d h⟩

/-- Settles O30: the flipped byte takes the register somewhere else, and the bytes after it keep two registers apart. -/
theorem crcDetectsEverySingleBit : Obligations.CrcDetectsEverySingleBit := by
  intro seed m j k hj hk h
  have hm : crc7 seed m = crc7 seed (m.take j ++ m[j] :: m.drop (j + 1)) := by
    rw [List.cons_getElem_drop_succ, List.take_append_drop]
  rw [hm, List.set_eq_take_append_cons_drop, if_pos hj, crc7_append, crc7_append, crc7_cons, crc7_cons] at h
  exact crc7Upd_flip_ne _ _ hk (crc7_injective _ h)

/-! ## The two commands (43_crc7.md R203, R204) -/

/-- Settles O26: `CRC7.SEED` has one way to end, with the low seven bits of `B` in `CRC`. -/
theorem crcSeedLoadsLowSevenBits : Obligations.CrcSeedLoadsLowSevenBits := by
  intro s
  have hseed : BitVec.ofNat 7 (s.b.toNat % 128) = s.b.setWidth 7 := BitVec.eq_of_toNat_eq (by simp)
  rw [hseed]
  exact exec_of_success .crc7Seed

/-- Settles O27: `CRC7.UPD` has one way to end; its byte step in R201's arithmetic, and the values of R204. -/
theorem crcUpdateFoldsOneByte : Obligations.CrcUpdateFoldsOneByte :=
  ⟨fun _ => exec_of_success .crc7Upd, toNat_crc7Upd, by decide⟩

end Sys2Proof.Proofs

/-! PROOFS. The minimal trailer (44_minimal_trailer.md): packing and unpacking in the arithmetic of the rules, the tests
`MTP.DEC` makes of three bytes, and what the two commands do, each alone and one after the other. -/

namespace Sys2Proof.Proofs

open Sys2Proof.Machine

/-! ## The packed temperature (44_minimal_trailer.md R216 to R219) -/

/-- The bias takes every temperature into 11 bits, whatever `TEMP_BIAS` is (R216). -/
theorem biasT_lt (p : Params) (t : Int) : biasT p t < 2 ^ 11 := by
  unfold biasT
  omega

theorem biasT_sub_tempBias (p : Params) (t : Int) : (biasT p t : Int) - p.tempBias = clampTemp p t := by
  unfold biasT clampTemp
  omega

/-- A biased value is biased back to itself: the clamp leaves it alone. -/
theorem biasT_of_lt (p : Params) {n : Nat} (hn : n < 2 ^ 11) : biasT p (n - p.tempBias) = n := by
  unfold biasT
  omega

theorem tpUnpack_encodeWire (p : Params) (pl : Bool) (lo : BitVec 4) (hi : BitVec 7) :
    tpUnpack p (encodeWire (.tpByte0 pl lo)) (encodeWire (.tpByte1 hi)) =
      some (((hi ++ lo).toNat : Int) - p.tempBias, pl) := by
  have h0 : decodeWire .tpByte0 (encodeWire (.tpByte0 pl lo)) = _ := decodeWire_encodeWire (.tpByte0 pl lo)
  have h1 : decodeWire .tpByte1 (encodeWire (.tpByte1 hi)) = _ := decodeWire_encodeWire (.tpByte1 hi)
  simp only [tpUnpack, h0, h1]

/-- The two bytes hold the biased temperature, low nibble and high bits. -/
theorem extract_append_extract (b : BitVec 11) : b.extractLsb' 4 7 ++ b.extractLsb' 0 4 = b := by
  refine BitVec.eq_of_toNat_eq ?_
  rw [toNat_append_eq_add, BitVec.extractLsb'_toNat, BitVec.extractLsb'_toNat]
  have := b.isLt
  omega

theorem tpUnpack_tpPack (p : Params) (t : Int) (pl : Bool) :
    tpUnpack p (tpPack p t pl).1 (tpPack p t pl).2 = some (clampTemp p t, pl) := by
  simp only [tpPack, tpUnpack_encodeWire, extract_append_extract, BitVec.toNat_ofNat, Nat.mod_eq_of_lt (biasT_lt p t),
    biasT_sub_tempBias]

/-- The fields of two bytes, unbiased and packed again, are those two bytes. -/
theorem tpPack_append (p : Params) (pl : Bool) (lo : BitVec 4) (hi : BitVec 7) :
    tpPack p ((hi ++ lo).toNat - p.tempBias) pl = (encodeWire (.tpByte0 pl lo), encodeWire (.tpByte1 hi)) := by
  simp only [tpPack, biasT_of_lt p (hi ++ lo).isLt, BitVec.ofNat_toNat, BitVec.setWidth_eq]
  rw [BitVec.extractLsb'_append_eq_right, BitVec.extractLsb'_append_eq_left]

/-- Two bytes that unpack are pictures of their fields (30_encoding.md R114), so packing gives them back. -/
theorem tpPack_of_tpUnpack {p : Params} {y0 y1 : Byte} {t : Int} {pl : Bool} (h : tpUnpack p y0 y1 = some (t, pl)) :
    tpPack p t pl = (y0, y1) := by
  unfold tpUnpack at h
  split at h
  next pl' lo hi h0 h1 =>
    obtain ⟨-, rfl⟩ := eq_of_decodeWire h0
    obtain ⟨-, rfl⟩ := eq_of_decodeWire h1
    obtain ⟨rfl, rfl⟩ := Prod.mk.inj (Option.some.inj h)
    exact tpPack_append p pl' lo hi
  next => cases h

theorem isOfClass_tpByte0 (b : Byte) : isOfClass .tpByte0 b = true ↔ b &&& 0xE0 = 0x40 := beq_iff_eq

theorem isOfClass_tpByte1 (b : Byte) : isOfClass .tpByte1 b = true ↔ b.getLsbD 7 = false := by
  revert b
  decide

/-- The fields of the two bytes in the arithmetic of R218. -/
theorem toNat_extract_append {y0 y1 : Byte} (h1 : y1.getLsbD 7 = false) :
    (y1.extractLsb' 0 7 ++ y0.extractLsb' 0 4).toNat = y1.toNat * 16 + y0.toNat % 16 := by
  have hlt : y1.toNat < 2 ^ 7 := BitVec.toNat_lt_of_msb_false h1
  simp only [toNat_append_eq_add, BitVec.extractLsb'_toNat, Nat.shiftRight_zero]
  omega

/-- The fixed bits decide whether two bytes unpack, and the rest of them is their value (R218). -/
theorem tpUnpack_eq (p : Params) (y0 y1 : Byte) :
    tpUnpack p y0 y1 =
      if y0 &&& 0xE0 = 0x40 ∧ y1.getLsbD 7 = false then
        some ((y1.toNat * 16 + y0.toNat % 16 : Nat) - (p.tempBias : Int), y0.getLsbD 4)
      else none := by
  rw [tpUnpack, decodeWire, decodeWire]
  by_cases h0 : y0 &&& 0xE0 = 0x40
  · rw [if_pos ((isOfClass_tpByte0 y0).2 h0)]
    by_cases h1 : y1.getLsbD 7 = false
    · rw [if_pos ((isOfClass_tpByte1 y1).2 h1), if_pos ⟨h0, h1⟩, ← toNat_extract_append h1]
      rfl
    · rw [if_neg (mt (isOfClass_tpByte1 y1).1 h1), if_neg fun h => h1 h.2]
      rfl
  · rw [if_neg (mt (isOfClass_tpByte0 y0).1 h0), if_neg fun h : _ ∧ _ => h0 h.1]

/-- Settles O33: both directions of R219, and the domain of R218. -/
theorem packAndUnpackAreInverse : Obligations.PackAndUnpackAreInverse := by
  refine ⟨tpUnpack_tpPack, fun p y0 y1 t pl h => tpPack_of_tpUnpack h, fun p y0 y1 => ?_⟩
  rw [tpUnpack_eq]
  simp

/-! ## The three bytes (30_encoding.md R111) -/

theorem toNat_crcByte (c : Crc7) : (crcByte c).toNat = c.toNat := toNat_encodeWire (.crc c)

theorem eq_crcByte_iff {y : Byte} {c : Crc7} : y = crcByte c ↔ y.toNat = c.toNat := by
  rw [← BitVec.toNat_inj, toNat_crcByte]

theorem crcByte_injective : Function.Injective crcByte := fun c _ h =>
  BitVec.eq_of_toNat_eq ((toNat_crcByte c).symm.trans (eq_crcByte_iff.1 h))

/-- The two bytes of a section as numbers (44_minimal_trailer.md R217). -/
theorem toNat_tpPack (p : Params) (t : Int) (pl : Bool) :
    (tpPack p t pl).1.toNat = 0x40 + 16 * pl.toNat + biasT p t % 16 ∧ (tpPack p t pl).2.toNat = biasT p t / 16 := by
  have hlt := biasT_lt p t
  simp only [tpPack, toNat_encodeWire, wireValue, BitVec.extractLsb'_toNat, BitVec.toNat_ofNat,
    Nat.shiftRight_eq_div_pow, Nat.mod_eq_of_lt hlt]
  omega

theorem sectionBytes_eq (p : Params) (t : Int) (pl : Bool) :
    sectionBytes p t pl = [(tpPack p t pl).1, (tpPack p t pl).2] := by
  obtain ⟨h0, h1⟩ := toNat_tpPack p t pl
  change [BitVec.ofNat 8 (0x40 + 16 * pl.toNat + biasT p t % 16), BitVec.ofNat 8 (biasT p t / 16)] = _
  rw [← h0, ← h1, BitVec.ofNat_toNat, BitVec.ofNat_toNat, BitVec.setWidth_eq, BitVec.setWidth_eq]

theorem trailerBytes_eq_trailerOf (p : Params) (t : Int) (pl : Bool) : trailerBytes p t pl = trailerOf p t pl := by
  rw [trailerOf, sectionBytes_eq, ← toNat_crcByte, BitVec.ofNat_toNat, BitVec.setWidth_eq]
  rfl

/-- The tests `MTP.DEC` makes of three bytes: that the third is the CRC of the first two, and that these unpack
(44_minimal_trailer.md R225). -/
theorem parseTrailer_cons (p : Params) (y0 y1 y2 : Byte) (rest : List Byte) :
    parseTrailer p (y0 :: y1 :: y2 :: rest) =
      if y2 = crcByte (crc7 minCrcSeed [y0, y1]) then tpUnpack p y0 y1 else none := by
  rw [parseTrailer]
  cases tpUnpack p y0 y1 with
  | none => exact (ite_self none).symm
  | some x => rfl

/-- A trailer at the head of a window is read back, clamped. -/
theorem parseTrailer_trailerBytes (p : Params) (t : Int) (pl : Bool) (rest : List Byte) :
    parseTrailer p (trailerBytes p t pl ++ rest) = some (clampTemp p t, pl) :=
  (parseTrailer_cons p _ _ _ rest).trans ((if_pos rfl).trans (tpUnpack_tpPack p t pl))

/-- A trailer with one bit flipped is not accepted, whatever the parameters: the CRC byte no longer fits the bytes
before it (44_minimal_trailer.md R227). -/
theorem parseTrailer_flip (p q : Params) (t : Int) (pl : Bool) (rest : List Byte) {j k : Nat} (hk : k < 8)
    (hj : j < (trailerBytes q t pl).length) :
    parseTrailer p ((trailerBytes q t pl).set j ((trailerBytes q t pl)[j] ^^^ BitVec.twoPow 8 k) ++ rest) = none := by
  have hmessage := crcDetectsEverySingleBit minCrcSeed [(tpPack q t pl).1, (tpPack q t pl).2]
  have hflip (y : Byte) : y ^^^ BitVec.twoPow 8 k ≠ y := fun h => crc7Upd_flip_ne 0 y hk (congrArg (crc7Upd 0) h)
  match j, hj with
  | 0, _ =>
    exact (parseTrailer_cons ..).trans (if_neg fun h => hmessage 0 k (by simp) hk (crcByte_injective h).symm)
  | 1, _ =>
    exact (parseTrailer_cons ..).trans (if_neg fun h => hmessage 1 k (by simp) hk (crcByte_injective h).symm)
  | 2, _ => exact (parseTrailer_cons ..).trans (if_neg (hflip _))

/-! ## The window (10_state.md R37) -/

theorem badWindow_of_goodWindow {s : State} (h : goodWindow s) : s.badWindow = false := badWindow_eq_false.2 h

theorem badWindow_of_not_goodWindow {s : State} (h : ¬ goodWindow s) : s.badWindow = true :=
  Bool.of_not_eq_false (mt badWindow_eq_false.1 h)

/-- The window begins with as many bytes at `POS` as there is room for. -/
theorem window_eq_append {s : State} {n : Nat} (hn : n ≤ s.room) :
    s.window = bufBytes s s.pos.toNat n ++ s.window.drop n := by
  rw [State.window, ← bufBytes_take s s.pos.toNat s.room n hn, List.take_append_drop]

/-- A byte rewritten within a run of bytes. -/
theorem bufBytes_bufWrite (off n j : Nat) (v : Byte) (s : State) :
    bufBytes (bufWrite (off + j) v s) off n = (bufBytes s off n).set j v := by
  refine List.ext_getElem (by simp) fun i h1 h2 => ?_
  rw [bufBytes_getElem, bufRead_bufWrite, List.getElem_set, bufBytes_getElem]
  by_cases h : i = j
  · rw [if_pos (by omega), if_pos h.symm]
  · rw [if_neg (by omega), if_neg (Ne.symm h)]

/-! ## `STATUS` of the two failures a frame command adds (60_exceptions.md R270) -/

/-- A failure with `E_NOSPACE`. -/
theorem exec_of_noSpace {o : Opcode} {s t : State}
    (h : CommandEffect { s with cmd := encodeOpcode o } o (.error .noSpace) t) :
    exec o.instr s = .next { t with status := 0x30 } := by
  have hstatus : statusOf (.error .noSpace) = 0x30 := by decide
  exact hstatus ▸ exec_of_effect h

/-- A failure with `E_WIRE`. -/
theorem exec_of_wire {o : Opcode} {s t : State}
    (h : CommandEffect { s with cmd := encodeOpcode o } o (.error .wire) t) :
    exec o.instr s = .next { t with status := 0x20 } := by
  have hstatus : statusOf (.error .wire) = 0x20 := by decide
  exact hstatus ▸ exec_of_effect h

/-! ## `MTP.ENC` (44_minimal_trailer.md R221) -/

theorem bufBytes_of_mtpEnc {s t : State} (h : exec .mtpEnc s = .next t) (hok : t.ok = true) :
    bufBytes t s.pos.toNat 3 = trailerBytes s.params s.ftemp.toInt s.desc.pl := by
  obtain ⟨hread, -⟩ := bufRead_of_mtpEnc h hok
  exact (List.map_congr_left fun a _ => hread a).trans (bufBytes_bufWriteList _ _ s)

/-- A trailer encode that succeeded found a good window with room for three bytes, and wrote these registers and the
buffer. -/
theorem eq_of_mtpEnc {s t : State} (h : exec .mtpEnc s = .next t) (hok : t.ok = true) :
    s.badWindow = false ∧ 3 ≤ s.room ∧
      t = { s with cmd := 0x20, buf := t.buf, pos := BitVec.ofNat 8 (s.pos.toNat + 3), status := 0x01 } := by
  obtain ⟨fin, u, hu, rfl⟩ := effect_of_exec_ok (o := .mtpEnc) h hok
  cases hu with
  | mtpEnc hw hroom => exact ⟨hw, hroom, rfl⟩

/-- Settles O31, by the three ways `MTP.ENC` can end. -/
theorem trailerEncodeWritesThreeBytes : Obligations.TrailerEncodeWritesThreeBytes := by
  refine fun s => ⟨fun hwin hroom => ?_, fun hwin => exec_of_inval (.mtpEncInval (badWindow_of_not_goodWindow hwin)),
    fun hwin hroom => exec_of_noSpace (.mtpEncNoSpace (badWindow_of_goodWindow hwin) hroom)⟩
  obtain ⟨t, h, hok⟩ : ∃ t, exec .mtpEnc s = .next t ∧ t.ok = true :=
    ⟨_, exec_of_effect (.mtpEnc (badWindow_of_goodWindow hwin) hroom), writeStatus_ok _ _⟩
  obtain ⟨-, -, ht⟩ := eq_of_mtpEnc h hok
  obtain ⟨hread, -⟩ := bufRead_of_mtpEnc h hok
  refine ⟨t, h, ht, (bufBytes_of_mtpEnc h hok).trans (trailerBytes_eq_trailerOf _ _ _), fun off hoff => ?_⟩
  rw [hread, bufRead_bufWriteList, dif_neg]
  simp only [trailerBytes, List.length_cons, List.length_nil]
  omega

/-- With `POS` put back, the window of the encode is still good and still has its room. -/
theorem window_of_mtpEnc {s t : State} (h : exec .mtpEnc s = .next t) (hok : t.ok = true) :
    State.badWindow { t with pos := s.pos } = false ∧ 3 ≤ State.room { t with pos := s.pos } := by
  obtain ⟨hw, hroom, ht⟩ := eq_of_mtpEnc h hok
  rw [ht]
  exact ⟨hw, hroom⟩

/-! ## `MTP.DEC` (44_minimal_trailer.md R225) -/

theorem packFlags_tpp (pl : Bool) : packFlags false true false pl 0 = BitVec.ofNat 6 (0x02 + 8 * pl.toNat) := by
  cases pl <;> rfl

theorem exec_mtpDec_accept {s : State} {temp : Int} {pl : Bool} (hw : s.badWindow = false)
    (hparse : parseTrailer s.params s.window = some (temp, pl)) :
    exec .mtpDec s = .next { s with
      cmd := 0x21
      fflags := BitVec.ofNat 6 (0x02 + 8 * pl.toNat)
      fid := 0
      ftemp := BitVec.ofInt 16 temp
      fambl := 0
      pos := BitVec.ofNat 8 (s.pos.toNat + 3)
      status := 0x01 } := by
  rw [← packFlags_tpp]
  exact exec_of_success (.mtpDec (s := { s with cmd := encodeOpcode .mtpDec }) hw hparse)

theorem exec_mtpDec_reject {s : State} (hw : s.badWindow = false) (hparse : parseTrailer s.params s.window = none) :
    exec .mtpDec s =
      .next { s with cmd := 0x21, fflags := 0, fid := 0, ftemp := 0, fambl := 0, status := 0x20 } :=
  exec_of_wire (.mtpDecWire (s := { s with cmd := encodeOpcode .mtpDec }) hw hparse)

/-- Settles O32, by the three ways `MTP.DEC` can end; with a good window the choice is the tests of `parseTrailer`. -/
theorem trailerDecodeChecksAndExtracts : Obligations.TrailerDecodeChecksAndExtracts := by
  intro s y0 y1 y2 good
  have hwindow (h3 : 3 ≤ s.room) : s.window = y0 :: y1 :: y2 :: s.window.drop 3 := window_eq_append h3
  refine ⟨fun hwin hgood => ?_, fun hwin hbad => ?_,
    fun hwin => exec_of_inval (.mtpDecInval (badWindow_of_not_goodWindow hwin))⟩
  · obtain ⟨h3, h0, h1, h2⟩ := hgood
    refine exec_mtpDec_accept (badWindow_of_goodWindow hwin) ?_
    have hcrc : y2 = crcByte (crc7 minCrcSeed [y0, y1]) := eq_crcByte_iff.2 h2
    rw [hwindow h3, parseTrailer_cons, if_pos hcrc, tpUnpack_eq, if_pos ⟨h0, h1⟩]
  · refine exec_mtpDec_reject (badWindow_of_goodWindow hwin) (Option.eq_none_iff_forall_ne_some.2 fun x hx => hbad ?_)
    have h3 : 3 ≤ s.room := window_length s ▸ length_of_parseTrailer hx
    rw [hwindow h3, parseTrailer_cons, Option.ite_none_right_eq_some, tpUnpack_eq, Option.ite_none_right_eq_some] at hx
    obtain ⟨h2, ⟨h0, h1⟩, -⟩ := hx
    exact ⟨h3, h0, h1, eq_crcByte_iff.1 h2⟩

/-- What `MTP.DEC` makes of its window, from the bytes at `POS` and whatever follows them. -/
theorem parseTrailer_window {s : State} {n : Nat} {vs : List Byte} {x : Option (Int × Bool)} (hroom : n ≤ s.room)
    (hbytes : bufBytes s s.pos.toNat n = vs) (hparse : ∀ rest, parseTrailer s.params (vs ++ rest) = x) :
    parseTrailer s.params s.window = x := by
  rw [window_eq_append hroom, hbytes, hparse]

/-! ## One command after the other (44_minimal_trailer.md R227) -/

theorem ok_of_status {s : State} (h : s.status = 0x01) : s.ok = true := by
  rw [State.ok, h]
  rfl

/-- Settles O34: the window from the old `POS` begins with the trailer, and that reads back as what was packed. -/
theorem trailerRoundTrip : Obligations.TrailerRoundTrip := by
  intro s t h hok
  obtain ⟨-, -, ht⟩ := eq_of_mtpEnc h hok
  have hparams : t.params = s.params := by rw [ht]
  have hpos : t.pos = BitVec.ofNat 8 (s.pos.toNat + 3) := by rw [ht]
  have hwr : writeReg .pos (s.pos.setWidth 16) t = { t with pos := s.pos } := by simp [writeReg]
  have hbytes := bufBytes_of_mtpEnc h hok
  have hback (rest : List Byte) : parseTrailer t.params (trailerBytes s.params s.ftemp.toInt s.desc.pl ++ rest) =
      some (clampTemp s.params s.ftemp.toInt, s.desc.pl) := by
    rw [hparams, parseTrailer_trailerBytes]
  obtain ⟨hw, hroom⟩ := window_of_mtpEnc h hok
  refine ⟨{ t with pos := s.pos }, _, ?_, exec_mtpDec_accept hw (parseTrailer_window hroom hbytes hback),
    ok_of_status rfl, rfl, rfl, rfl, rfl, hpos.symm⟩
  rw [← hwr]
  exact exec_scriptWr_register (busTarget_regAddress .pos) nofun _ t

/-- Settles O35: the window from the old `POS` begins with the trailer, one bit of it flipped. -/
theorem trailerDetectsEverySingleBit : Obligations.TrailerDetectsEverySingleBit := by
  intro s t j k h hok hj hk
  have hbyte : bufRead t (s.pos.toNat + j) = (trailerBytes s.params s.ftemp.toInt s.desc.pl)[j] := by
    simp only [← bufBytes_of_mtpEnc h hok, bufBytes_getElem]
  rw [hbyte]
  have hbytes := bufBytes_bufWrite s.pos.toNat 3 j
    ((trailerBytes s.params s.ftemp.toInt s.desc.pl)[j] ^^^ BitVec.twoPow 8 k) t
  rw [bufBytes_of_mtpEnc h hok] at hbytes
  obtain ⟨hw, hroom⟩ := window_of_mtpEnc h hok
  refine ⟨_, exec_mtpDec_reject hw (parseTrailer_window hroom hbytes fun rest => ?_), rfl⟩
  exact parseTrailer_flip _ _ _ _ rest hk hj

end Sys2Proof.Proofs

/-! PROOFS. The full-core frame as numbers (30_encoding.md), and what `FSM.ENC` does (45_full_frame.md R238). -/

namespace Sys2Proof.Proofs

open Sys2Proof.Machine

/-! ## The frame in the arithmetic of the rules (30_encoding.md R112 to R117) -/

theorem encodeWire_eq_ofNat (x : WireByte) : encodeWire x = BitVec.ofNat 8 (wireValue x) := by
  rw [← toNat_encodeWire, BitVec.ofNat_toNat, BitVec.setWidth_eq]

theorem toNat_id0 (d : Desc) : d.id0.toNat = d.fid.toNat % 256 := by
  simp [Desc.id0, BitVec.extractLsb'_toNat]

theorem toNat_id1 (d : Desc) : d.id1.toNat = d.fid.toNat / 256 := by
  have := d.fid.isLt
  simp only [Desc.id1, BitVec.extractLsb'_toNat, Nat.shiftRight_eq_div_pow]
  omega

theorem getLsbD_seven_eq (b : Byte) : b.getLsbD 7 = (b.toNat / 128 % 2 == 1) := by
  rw [BitVec.getLsbD, Nat.testBit_eq_decide_div_mod_eq]
  rfl

theorem id0_topBit (d : Desc) : d.id0.getLsbD 7 = (d.fid.toNat / 128 % 2 == 1) := by
  rw [getLsbD_seven_eq, toNat_id0, show d.fid.toNat % 256 / 128 % 2 = d.fid.toNat / 128 % 2 by omega]

theorem toNat_occWire (occTx : Bool) (d : Desc) :
    (occWire occTx d).toNat = if occTx then d.fflags.toNat / 16 else 0 := by
  have := d.fflags.isLt
  cases occTx with
  | false => rfl
  | true =>
    simp only [occWire, Desc.occ, if_true, BitVec.extractLsb'_toNat, Nat.shiftRight_eq_div_pow]
    omega

theorem payload_eq_payloadOf (p : Params) (occTx : Bool) (d : Desc) : payload p occTx d = payloadOf p occTx d := by
  have hid0 : d.fid.toNat % 256 % 128 = d.fid.toNat % 128 := by omega
  simp only [payload, payloadOf, encodeWire_eq_ofNat, wireValue, sectionBytes_eq, id0_topBit, toNat_occWire,
    BitVec.toNat_setWidth, toNat_id0, toNat_id1, Bool.toNat_false, Nat.add_zero, Nat.reducePow, hid0,
    BitVec.ofNat_toNat, BitVec.setWidth_eq]

theorem frameBody_eq_frameOf (p : Params) (occTx : Bool) (d : Desc) : frameBody p occTx d = frameOf p occTx d := by
  rw [frameBody, frameOf, ← payload_eq_payloadOf, crcByte, encodeWire_eq_ofNat, wireValue]

theorem frameBody_length (p : Params) (occTx : Bool) (d : Desc) :
    (frameBody p occTx d).length = frameLen d.idp d.tpp d.alp + 1 := by
  simpa [frameBytes_eq_concat] using frameBytes_length p occTx d

theorem unsendable_iff_refusedFields (d : Desc) : d.unsendable = true ↔ refusedFields d := by
  have hlt := d.fid.isLt
  have h0 : d.id0 = byteFF ↔ d.fid.toNat % 256 = 0xFF := by
    rw [← BitVec.toNat_inj, toNat_id0]; rfl
  have h1 : d.id1 = byteFF ↔ d.fid.toNat / 256 = 0xFF := by
    rw [← BitVec.toNat_inj, toNat_id1]; rfl
  have htop : d.id0.getLsbD 7 ≠ d.id1.getLsbD 7 ↔ d.fid.toNat / 128 % 2 ≠ d.fid.toNat / 32768 := by
    rw [id0_topBit, getLsbD_seven_eq, toNat_id1, Ne, Bool.eq_iff_iff, beq_iff_eq, beq_iff_eq]
    omega
  simp only [Desc.unsendable, refusedFields, Bool.or_eq_true, Bool.and_eq_true, beq_iff_eq, bne_iff_ne, h0, h1, htop,
    or_assoc]

/-! ## `FSM.ENC` (45_full_frame.md R238) -/

theorem badWindow_iff_not_goodWindow {s : State} : s.badWindow = true ↔ ¬ goodWindow s :=
  ⟨fun h hgood => by simp [badWindow_of_goodWindow hgood] at h, badWindow_of_not_goodWindow⟩

/-- A frame encode that succeeded found a plain channel and a good window with room for the frame and its terminator,
and wrote these registers and the buffer. -/
theorem eq_of_fsmEnc {s t : State} (h : exec .fsmEnc s = .next t) (hok : t.ok = true) :
    s.secCh = false ∧ s.badWindow = false ∧ (frameBody s.params s.occTx s.desc).length + 1 ≤ s.room ∧
      t = { s with
        cmd := 0x30, buf := t.buf, status := 0x01
        pos := BitVec.ofNat 8 (s.pos.toNat + (frameBody s.params s.occTx s.desc).length) } := by
  obtain ⟨fin, u, hu, rfl⟩ := effect_of_exec_ok (o := .fsmEnc) h hok
  cases hu with
  | fsmEnc hsec hw hd hroom =>
    rw [frameBody_length]
    exact ⟨hsec, hw, hroom, rfl⟩

theorem bufBytes_of_fsmEnc {s t : State} (h : exec .fsmEnc s = .next t) (hok : t.ok = true) :
    bufBytes t s.pos.toNat ((frameBody s.params s.occTx s.desc).length + 1) =
      frameBody s.params s.occTx s.desc ++ [0xFF] := by
  obtain ⟨-, hread, -⟩ := bufRead_of_fsmEnc h hok
  have hrun := bufBytes_bufWriteList s.pos.toNat (frameBytes s.params s.occTx s.desc) s
  rw [frameBytes_eq_concat, List.length_append, List.length_singleton] at hrun
  exact (List.map_congr_left fun a _ => by rw [hread, frameBytes_eq_concat]).trans hrun

/-- A frame encode whose tests all pass succeeds. -/
theorem exec_fsmEnc_accept {s : State} (hsec : s.secCh = false) (hw : s.badWindow = false)
    (hd : s.desc.unsendable = false) (hroom : (frameBody s.params s.occTx s.desc).length + 1 ≤ s.room) :
    ∃ t, exec .fsmEnc s = .next t ∧ t.ok = true := by
  rw [frameBody_length] at hroom
  exact ⟨_, exec_of_effect (.fsmEnc hsec hw hd hroom), writeStatus_ok _ _⟩

/-- Settles O36, by the three ways `FSM.ENC` can end. -/
theorem frameEncodeBuildsTheFrame : Obligations.FrameEncodeBuildsTheFrame := by
  intro s f bad
  have hf : f = frameBody s.params s.occTx s.desc := (frameBody_eq_frameOf _ _ _).symm
  have hbad : bad ↔ s.secCh = true ∨ s.badWindow = true ∨ s.desc.unsendable = true := by
    rw [badWindow_iff_not_goodWindow, unsendable_iff_refusedFields]
    rfl
  have hplain (h : ¬ bad) : s.secCh = false ∧ s.badWindow = false ∧ s.desc.unsendable = false := by
    simpa [hbad] using h
  refine ⟨fun h hroom => ?_, fun h => exec_of_inval (.fsmEncInval (hbad.1 h)), fun h hroom => ?_, ?_⟩
  · obtain ⟨hsec, hw, hd⟩ := hplain h
    rw [hf] at hroom ⊢
    obtain ⟨t, ht, hok⟩ := exec_fsmEnc_accept hsec hw hd hroom
    obtain ⟨-, -, -, heq⟩ := eq_of_fsmEnc ht hok
    obtain ⟨-, hread, -⟩ := bufRead_of_fsmEnc ht hok
    refine ⟨t, ht, heq, bufBytes_of_fsmEnc ht hok, fun off hoff => ?_⟩
    rw [hread, bufRead_bufWriteList, frameBytes_eq_concat, dif_neg]
    rw [List.length_append, List.length_singleton]
    omega
  · obtain ⟨hsec, hw, hd⟩ := hplain h
    rw [hf, frameBody_length] at hroom
    exact exec_of_noSpace (.fsmEncNoSpace hsec hw hd hroom)
  · rw [hf, frameBody_length, frameLen]
    change 2 + 2 * s.desc.idp.toNat + 2 * s.desc.tpp.toNat + s.desc.alp.toNat + 1 =
      3 + 2 * s.desc.idp.toNat + 2 * s.desc.tpp.toNat + s.desc.alp.toNat
    omega

end Sys2Proof.Proofs

/-! PROOFS. The parser of the full-core frame against the bytes of a frame, section by section (45_full_frame.md R250), and
the normal form of a descriptor (R252). -/

namespace Sys2Proof.Proofs

open Sys2Proof.Machine

/-! ## The sections of a payload (30_encoding.md R119) -/

/-- The ID section. -/
def idSection (idp : Bool) (id0 id1 : Byte) : List Byte :=
  if idp then [encodeWire (.idByte (id0.setWidth 7)), encodeWire (.idByte (id1.setWidth 7))] else []

/-- The temperature and power section. -/
def tpSection (p : Params) (tpp : Bool) (t : Int) (pl : Bool) : List Byte :=
  if tpp then [(tpPack p t pl).1, (tpPack p t pl).2] else []

/-- The ambient-light section. -/
def lightSection (alp : Bool) (level : Byte) : List Byte := if alp then [level] else []

/-- The payload of a frame whose fields are those of `d`, but for the temperature `t`: that is what the bytes say, before
it is narrowed into `FTEMP`. `payload_eq_framePayload` ties it to what the encoder writes. -/
def framePayload (p : Params) (d : Desc) (t : Int) : List Byte :=
  encodeWire (.fullHeader d.idp (d.idp && d.id0.getLsbD 7) false) ::
    (idSection d.idp d.id0 d.id1 ++ (tpSection p d.tpp t d.pl ++
      (encodeWire (.flags d.alp d.occ) :: lightSection d.alp d.fambl)))

/-- A message and its CRC byte (30_encoding.md R117). -/
def withCrc (p : Params) (m : List Byte) : List Byte := m ++ [crcByte (crc7 p.fullCrcSeed m)]

theorem idSection_length (idp : Bool) (id0 id1 : Byte) : (idSection idp id0 id1).length = 2 * idp.toNat := by
  cases idp <;> rfl

theorem tpSection_length (p : Params) (tpp : Bool) (t : Int) (pl : Bool) :
    (tpSection p tpp t pl).length = 2 * tpp.toNat := by
  cases tpp <;> rfl

theorem lightSection_length (alp : Bool) (level : Byte) : (lightSection alp level).length = alp.toNat := by
  cases alp <;> rfl

theorem framePayload_length (p : Params) (d : Desc) (t : Int) :
    (framePayload p d t).length = frameLen d.idp d.tpp d.alp := by
  simp only [framePayload, List.length_cons, List.length_append, idSection_length, tpSection_length,
    lightSection_length, frameLen]
  omega

theorem withCrc_length (p : Params) (m : List Byte) : (withCrc p m).length = m.length + 1 := by
  simp [withCrc]

/-! ## Each parser reads its own section (45_full_frame.md R250) -/

theorem decodeWire_fullHeader (idp idh sec : Bool) :
    decodeWire .fullHeader (encodeWire (.fullHeader idp idh sec)) = some (.fullHeader idp idh sec) :=
  decodeWire_encodeWire (.fullHeader idp idh sec)

theorem decodeWire_idByte (i : BitVec 7) : decodeWire .idByte (encodeWire (.idByte i)) = some (.idByte i) :=
  decodeWire_encodeWire (.idByte i)

theorem decodeWire_flags (alp : Bool) (occ : BitVec 2) :
    decodeWire .flags (encodeWire (.flags alp occ)) = some (.flags alp occ) :=
  decodeWire_encodeWire (.flags alp occ)

theorem isOfClass_tpPack (p : Params) (t : Int) (pl : Bool) : isOfClass .tpByte0 (tpPack p t pl).1 = true :=
  beq_iff_eq.2 (encodeWire_and_wireMask (.tpByte0 pl _))

/-- The two tests on the flag bits of a header byte: no `SEC`, and `IDH` only with `IDP` (30_encoding.md R120). -/
theorem headerFlags_accepted_iff (idp idh sec : Bool) :
    (sec || (idh && !idp)) = false ↔ sec = false ∧ (idp = false → idh = false) := by
  revert idp idh sec
  decide

theorem eq_of_parseHeader {bytes rest : List Byte} {idp idh : Bool} (h : parseHeader bytes = some (idp, idh, rest)) :
    bytes = encodeWire (.fullHeader idp idh false) :: rest ∧ (idp = false → idh = false) := by
  unfold parseHeader at h
  split at h
  next b rest' =>
    split at h
    next idp' idh' sec hb =>
      obtain ⟨-, rfl⟩ := eq_of_decodeWire hb
      split at h
      next => cases h
      next hok =>
        obtain ⟨rfl, hidh⟩ := (headerFlags_accepted_iff idp' idh' sec).1 (Bool.eq_false_of_not_eq_true hok)
        cases h
        exact ⟨rfl, hidh⟩
    next => cases h
  next => cases h

theorem parseHeader_cons {idp idh : Bool} (h : idp = false → idh = false) (rest : List Byte) :
    parseHeader (encodeWire (.fullHeader idp idh false) :: rest) = some (idp, idh, rest) := by
  have hok : (false || (idh && !idp)) = false := (headerFlags_accepted_iff idp idh false).2 ⟨rfl, h⟩
  simp only [parseHeader, decodeWire_fullHeader, hok, Bool.false_eq_true, if_false]

theorem getLsbD_seven_append (b : Bool) (i : BitVec 7) : (BitVec.ofBool b ++ i : Byte).getLsbD 7 = b := by
  rw [BitVec.getLsbD_append]
  simp

theorem setWidth_seven_append (b : Bool) (i : BitVec 7) : (BitVec.ofBool b ++ i : Byte).setWidth 7 = i :=
  BitVec.setWidth_append_eq_right

/-- A byte from its top bit and the rest. -/
theorem append_setWidth_seven (b : Byte) : (BitVec.ofBool (b.getLsbD 7) ++ b.setWidth 7 : Byte) = b := by
  revert b
  decide

/-- What the parser accepts of two ID bytes with the top bit `idh`; absent bytes are zero. -/
def IdAccepted (idp idh : Bool) (id0 id1 : Byte) : Prop :=
  if idp then id0 ≠ byteFF ∧ id1 ≠ byteFF ∧ id0.getLsbD 7 = idh ∧ id1.getLsbD 7 = idh else id0 = 0 ∧ id1 = 0

theorem eq_of_parseId {idp idh : Bool} {bytes rest : List Byte} {id0 id1 : Byte}
    (h : parseId idp idh bytes = some (id0, id1, rest)) :
    bytes = idSection idp id0 id1 ++ rest ∧ IdAccepted idp idh id0 id1 := by
  unfold parseId at h
  split at h
  next hidp =>
    subst hidp
    split at h
    next w0 w1 rest' =>
      split at h
      next i0 i1 h0 h1 =>
        obtain ⟨-, rfl⟩ := eq_of_decodeWire h0
        obtain ⟨-, rfl⟩ := eq_of_decodeWire h1
        simp only at h
        split at h
        next => cases h
        next hFF =>
          cases h
          obtain ⟨hFF0, hFF1⟩ := not_or.1 hFF
          exact ⟨by simp [idSection, setWidth_seven_append], hFF0, hFF1, getLsbD_seven_append _ _,
            getLsbD_seven_append _ _⟩
      next => cases h
    next => cases h
  next hidp =>
    obtain rfl := Bool.eq_false_of_not_eq_true hidp
    cases h
    exact ⟨rfl, rfl, rfl⟩

theorem parseId_append {idp idh : Bool} {id0 id1 : Byte} (h : IdAccepted idp idh id0 id1) (rest : List Byte) :
    parseId idp idh (idSection idp id0 id1 ++ rest) = some (id0, id1, rest) := by
  cases idp with
  | false =>
    obtain ⟨rfl, rfl⟩ := h
    rfl
  | true =>
    obtain ⟨hFF0, hFF1, rfl, htop⟩ := h
    have hid1 := append_setWidth_seven id1
    rw [htop] at hid1
    simp only [parseId, idSection, if_true, List.cons_append, List.nil_append, decodeWire_idByte,
      append_setWidth_seven, hid1, if_neg (not_or.2 ⟨hFF0, hFF1⟩)]

/-- What the parser gives of a temperature and power section; an absent one is zero. -/
def TpAccepted (p : Params) (tpp : Bool) (t : Int) (pl : Bool) : Prop :=
  if tpp then clampTemp p t = t else t = 0 ∧ pl = false

theorem eq_of_parseTp {p : Params} {bytes rest : List Byte} {tpp pl : Bool} {t : Int}
    (h : parseTp p bytes = some (tpp, t, pl, rest)) :
    bytes = tpSection p tpp t pl ++ rest ∧ TpAccepted p tpp t pl := by
  unfold parseTp at h
  split at h
  next y0 rest' =>
    split at h
    next =>
      split at h
      next y1 rest'' =>
        split at h
        next t' pl' hunpack =>
          cases h
          have hpack := tpPack_of_tpUnpack hunpack
          have hclamp := tpUnpack_tpPack p t pl
          rw [hpack, hunpack] at hclamp
          obtain ⟨hclamp, -⟩ := Prod.mk.inj (Option.some.inj hclamp)
          exact ⟨by simp [tpSection, hpack], hclamp.symm⟩
        next => cases h
      next => cases h
    next =>
      cases h
      exact ⟨rfl, rfl, rfl⟩
  next => cases h

/-- A flags byte does not begin a temperature and power section: bit 5 tells them apart (30_encoding.md R119). -/
theorem flags_not_tpByte0 (alp : Bool) (occ : BitVec 2) : isOfClass .tpByte0 (encodeWire (.flags alp occ)) = false := by
  revert alp occ
  decide

theorem parseTp_append {p : Params} {tpp pl : Bool} {t : Int} (h : TpAccepted p tpp t pl) (alp : Bool) (occ : BitVec 2)
    (rest : List Byte) :
    parseTp p (tpSection p tpp t pl ++ encodeWire (.flags alp occ) :: rest) =
      some (tpp, t, pl, encodeWire (.flags alp occ) :: rest) := by
  cases tpp with
  | false =>
    obtain ⟨rfl, rfl⟩ := h
    simp [parseTp, tpSection, flags_not_tpByte0]
  | true =>
    have hclamp : clampTemp p t = t := h
    simp only [parseTp, tpSection, if_true, List.cons_append, List.nil_append, isOfClass_tpPack, tpUnpack_tpPack, hclamp]

theorem eq_of_parseFlags {bytes rest : List Byte} {alp : Bool} {occ : BitVec 2}
    (h : parseFlags bytes = some (alp, occ, rest)) : bytes = encodeWire (.flags alp occ) :: rest := by
  unfold parseFlags at h
  split at h
  next =>
    split at h
    next hf =>
      obtain ⟨-, rfl⟩ := eq_of_decodeWire hf
      cases h
      rfl
    next => cases h
  next => cases h

theorem parseFlags_cons (alp : Bool) (occ : BitVec 2) (rest : List Byte) :
    parseFlags (encodeWire (.flags alp occ) :: rest) = some (alp, occ, rest) := by
  simp only [parseFlags, decodeWire_flags]

/-- What the parser accepts of an ambient-light byte; an absent one is zero. -/
def LightAccepted (alp : Bool) (level : Byte) : Prop :=
  if alp then level ≠ 0x00 ∧ level ≠ byteFF else level = 0

theorem eq_of_parseAmbient {alp : Bool} {bytes rest : List Byte} {level : Byte}
    (h : parseAmbient alp bytes = some (level, rest)) :
    bytes = lightSection alp level ++ rest ∧ LightAccepted alp level := by
  unfold parseAmbient at h
  split at h
  next halp =>
    subst halp
    split at h
    next =>
      split at h
      next => cases h
      next hlevel =>
        cases h
        exact ⟨rfl, not_or.1 hlevel⟩
    next => cases h
  next halp =>
    obtain rfl := Bool.eq_false_of_not_eq_true halp
    cases h
    exact ⟨rfl, rfl⟩

theorem parseAmbient_append {alp : Bool} {level : Byte} (h : LightAccepted alp level) (rest : List Byte) :
    parseAmbient alp (lightSection alp level ++ rest) = some (level, rest) := by
  cases alp with
  | false =>
    obtain rfl : level = 0 := h
    rfl
  | true => exact if_neg (not_or.2 h)

/-! ## The descriptor of a frame -/

/-- The descriptor `d`, whose temperature was `t` before it was narrowed into `FTEMP`, is one the parser gives: every
section is accepted, and the two ID bytes have the same top bit. -/
structure Carries (p : Params) (d : Desc) (t : Int) : Prop where
  id : IdAccepted d.idp (d.idp && d.id0.getLsbD 7) d.id0 d.id1
  tp : TpAccepted p d.tpp t d.pl
  light : LightAccepted d.alp d.fambl
  ftemp : d.ftemp = BitVec.ofInt 16 t

theorem packFlags_fields (d : Desc) : packFlags d.idp d.tpp d.alp d.pl d.occ = d.fflags := by
  obtain ⟨f, _, _, _⟩ := d
  revert f
  simp only [Desc.idp, Desc.tpp, Desc.alp, Desc.pl, Desc.occ]
  decide

/-- The fields of `FFLAGS` packed from them (10_state.md R39). -/
theorem fields_packFlags (idp tpp alp pl : Bool) (occ : BitVec 2) (fid ftemp : BusWord) (fambl : Byte) :
    let d : Desc := ⟨packFlags idp tpp alp pl occ, fid, ftemp, fambl⟩
    d.idp = idp ∧ d.tpp = tpp ∧ d.alp = alp ∧ d.pl = pl ∧ d.occ = occ := by
  revert idp tpp alp pl occ
  simp only [Desc.idp, Desc.tpp, Desc.alp, Desc.pl, Desc.occ]
  decide

/-- `FID` from its two bytes (10_state.md R40). -/
theorem id1_append_id0 (d : Desc) : d.id1 ++ d.id0 = d.fid := by
  refine BitVec.eq_of_toNat_eq ?_
  rw [toNat_append_eq_add, toNat_id0, toNat_id1]
  omega

/-- A payload and what follows it, section by section. -/
theorem framePayload_append (p : Params) (d : Desc) (t : Int) (tail : List Byte) :
    framePayload p d t ++ tail = encodeWire (.fullHeader d.idp (d.idp && d.id0.getLsbD 7) false) ::
      (idSection d.idp d.id0 d.id1 ++ (tpSection p d.tpp t d.pl ++ (encodeWire (.flags d.alp d.occ) ::
        (lightSection d.alp d.fambl ++ tail)))) := by
  simp [framePayload]

theorem withCrc_append (p : Params) (m rest : List Byte) :
    withCrc p m ++ rest = m ++ crcByte (crc7 p.fullCrcSeed m) :: rest :=
  List.append_assoc m [_] rest

/-- A payload such a descriptor has, with its CRC byte, is read back, whatever follows. -/
theorem parseFrame_append {p : Params} {d : Desc} {t : Int} (h : Carries p d t) (rest : List Byte) :
    parseFrame p (withCrc p (framePayload p d t) ++ rest) = some (d, (framePayload p d t).length) := by
  rw [withCrc_append]
  generalize hc : crcByte (crc7 p.fullCrcSeed (framePayload p d t)) = c
  have hhead : parseHeader (framePayload p d t ++ c :: rest) = _ :=
    (congrArg parseHeader (framePayload_append p d t _)).trans
      (parseHeader_cons (fun hidp => by rw [hidp, Bool.false_and]) _)
  have htake : (framePayload p d t ++ c :: rest).take (frameLen d.idp d.tpp d.alp) = framePayload p d t := by
    rw [← framePayload_length p d t, List.take_left]
  have hd : (⟨packFlags d.idp d.tpp d.alp d.pl d.occ, d.id1 ++ d.id0, BitVec.ofInt 16 t, d.fambl⟩ : Desc) = d := by
    rw [packFlags_fields, id1_append_id0, ← h.ftemp]
  simp only [parseFrame, hhead, parseId_append h.id, parseTp_append h.tp, parseFlags_cons,
    parseAmbient_append h.light, Option.bind_some, List.head?_cons, htake, hc, if_true, hd, framePayload_length]

/-- Whatever the parser accepts is such a payload with its CRC byte at the head of the window. -/
theorem eq_of_parseFrame {p : Params} {bytes : List Byte} {d : Desc} {n : Nat} (h : parseFrame p bytes = some (d, n)) :
    ∃ t rest, Carries p d t ∧ (framePayload p d t).length = n ∧ bytes = withCrc p (framePayload p d t) ++ rest := by
  simp only [parseFrame, Option.bind_eq_some_iff] at h
  obtain ⟨⟨idp, idh, b1⟩, hhead, ⟨id0, id1, b2⟩, hid, ⟨tpp, t, pl, b3⟩, htp, ⟨alp, occ, b4⟩, hflags,
    ⟨ambl, b5⟩, hambl, c, hcrc, h⟩ := h
  simp only at h hid htp hflags hambl hcrc
  split at h
  next hc =>
    obtain ⟨hd, hn⟩ := Prod.mk.inj (Option.some.inj h)
    obtain ⟨rest, rfl⟩ := List.head?_eq_some_iff.1 hcrc
    obtain ⟨rfl, hidh⟩ := eq_of_parseHeader hhead
    obtain ⟨rfl, hidacc⟩ := eq_of_parseId hid
    obtain ⟨rfl, htpacc⟩ := eq_of_parseTp htp
    obtain rfl := eq_of_parseFlags hflags
    obtain ⟨rfl, hlightacc⟩ := eq_of_parseAmbient hambl
    obtain ⟨h1, h2, h3, h4, h5⟩ := fields_packFlags idp tpp alp pl occ (id1 ++ id0) (BitVec.ofInt 16 t) ambl
    rw [hd] at h1 h2 h3 h4 h5
    have hid0 : d.id0 = id0 := by rw [← hd]; exact BitVec.extractLsb'_append_eq_right
    have hid1 : d.id1 = id1 := by rw [← hd]; exact BitVec.extractLsb'_append_eq_left
    have hlevel : d.fambl = ambl := by rw [← hd]
    have htop : (d.idp && d.id0.getLsbD 7) = idh := by
      rw [h1, hid0]
      cases idp with
      | false => exact (hidh rfl).symm
      | true => exact hidacc.2.2.1
    subst h1 h2 h3 h4 h5 hid0 hid1 hlevel htop hn
    have hpayload : (framePayload p d t).length = frameLen d.idp d.tpp d.alp := framePayload_length p d t
    refine ⟨t, rest, ⟨hidacc, htpacc, hlightacc, by rw [← hd]⟩, hpayload, ?_⟩
    rw [← framePayload_append] at hc ⊢
    rw [← hpayload, List.take_left] at hc
    rw [withCrc_append, hc]
  next => cases h

/-! ## Normal form (45_full_frame.md R252) -/

theorem unsendable_eq_false_iff (d : Desc) :
    d.unsendable = false ↔
      (d.idp = true → d.id0 ≠ byteFF ∧ d.id1 ≠ byteFF ∧ d.id0.getLsbD 7 = d.id1.getLsbD 7) ∧
      (d.alp = true → d.fambl ≠ 0x00 ∧ d.fambl ≠ byteFF) := by
  cases hidp : d.idp <;> cases halp : d.alp <;> simp [Desc.unsendable, hidp, halp, and_assoc]

theorem Carries.sendable {p : Params} {d : Desc} {t : Int} (h : Carries p d t) : d.unsendable = false := by
  refine (unsendable_eq_false_iff d).2 ⟨fun hidp => ?_, fun halp => ?_⟩
  · have hid := h.id
    rw [hidp] at hid
    obtain ⟨hFF0, hFF1, htop0, htop1⟩ := hid
    exact ⟨hFF0, hFF1, htop0.trans htop1.symm⟩
  · have hlight := h.light
    rwa [halp] at hlight

/-- The temperature the frame of `d` says, before it is narrowed into `FTEMP` again. -/
def sentTemp (p : Params) (d : Desc) : Int := if d.tpp then clampTemp p d.ftemp.toInt else 0

theorem clampTemp_clampTemp (p : Params) (t : Int) : clampTemp p (clampTemp p t) = clampTemp p t := by
  unfold clampTemp
  omega

theorem tpPack_clampTemp (p : Params) (t : Int) (pl : Bool) : tpPack p (clampTemp p t) pl = tpPack p t pl := by
  have hbias : biasT p (clampTemp p t) = biasT p t := by
    unfold biasT clampTemp
    omega
  rw [tpPack, tpPack, hbias]

section NormDesc

variable (p : Params) (occTx : Bool) (d : Desc)

theorem fields_normDesc :
    (normDesc p occTx d).idp = d.idp ∧ (normDesc p occTx d).tpp = d.tpp ∧ (normDesc p occTx d).alp = d.alp ∧
      (normDesc p occTx d).pl = (d.tpp && d.pl) ∧ (normDesc p occTx d).occ = occWire occTx d :=
  fields_packFlags _ _ _ _ _ _ _ _

theorem normDesc_ids_of_idp (h : d.idp = true) :
    (normDesc p occTx d).id0 = d.id0 ∧ (normDesc p occTx d).id1 = d.id1 := by
  simp [normDesc, Desc.id0, Desc.id1, h]

theorem normDesc_ids_of_no_idp (h : d.idp = false) :
    (normDesc p occTx d).id0 = 0 ∧ (normDesc p occTx d).id1 = 0 := by
  simp [normDesc, Desc.id0, Desc.id1, h]

/-- A frame says of a descriptor what it says of the normal form. -/
theorem payload_eq_framePayload :
    payload p occTx d = framePayload p (normDesc p occTx d) (sentTemp p d) := by
  obtain ⟨hidp, htpp, halp, hpl, hocc⟩ := fields_normDesc p occTx d
  have hidh : (d.idp && (normDesc p occTx d).id0.getLsbD 7) = (d.idp && d.id0.getLsbD 7) := by
    cases h : d.idp with
    | false => rfl
    | true => rw [(normDesc_ids_of_idp p occTx d h).1]
  have hid : idSection d.idp (normDesc p occTx d).id0 (normDesc p occTx d).id1 = idSection d.idp d.id0 d.id1 := by
    cases h : d.idp with
    | false => rfl
    | true => rw [(normDesc_ids_of_idp p occTx d h).1, (normDesc_ids_of_idp p occTx d h).2]
  have htp : tpSection p d.tpp (sentTemp p d) (d.tpp && d.pl) = tpSection p d.tpp d.ftemp.toInt d.pl := by
    cases h : d.tpp with
    | false => rfl
    | true => simp [tpSection, sentTemp, h, tpPack_clampTemp]
  have hlight : lightSection d.alp (normDesc p occTx d).fambl = lightSection d.alp d.fambl := by
    cases h : d.alp with
    | false => rfl
    | true => simp [normDesc, h]
  rw [framePayload, hidp, htpp, halp, hpl, hocc, hidh, hid, htp, hlight]
  simp [payload, idSection, tpSection, lightSection, encodeWire]

theorem carries_normDesc (hd : d.unsendable = false) : Carries p (normDesc p occTx d) (sentTemp p d) := by
  obtain ⟨hidp, htpp, halp, hpl, hocc⟩ := fields_normDesc p occTx d
  obtain ⟨hid, hlight⟩ := (unsendable_eq_false_iff d).1 hd
  refine ⟨?_, ?_, ?_, ?_⟩
  · rw [hidp]
    cases h : d.idp with
    | false => exact normDesc_ids_of_no_idp p occTx d h
    | true =>
      obtain ⟨h0, h1⟩ := normDesc_ids_of_idp p occTx d h
      obtain ⟨hFF0, hFF1, htop⟩ := hid h
      rw [h0, h1]
      exact ⟨hFF0, hFF1, rfl, htop.symm⟩
  · rw [htpp, hpl, sentTemp]
    cases d.tpp with
    | false => exact ⟨rfl, rfl⟩
    | true => exact clampTemp_clampTemp p _
  · rw [halp]
    cases h : d.alp with
    | false => simp [LightAccepted, normDesc, h]
    | true => simpa [LightAccepted, normDesc, h] using hlight h
  · cases h : d.tpp <;> simp [normDesc, sentTemp, h, clampTemp]

end NormDesc

/-- With the parameters in their ranges, `FTEMP` holds every temperature a frame can say (00_scope.md R7). -/
theorem toInt_of_clampTemp {p : Params} (hp : p.wf) {t : Int} (h : clampTemp p t = t) :
    (BitVec.ofInt 16 t).toInt = t := by
  obtain ⟨-, hbias, -⟩ := hp
  unfold clampTemp at h
  rw [BitVec.toInt_ofInt]
  exact Int.bmod_eq_of_le (by omega) (by omega)

/-- What a frame decodes to is in normal form, and encodes with the temperature that was read. -/
theorem Carries.canonical {p : Params} (hp : p.wf) {d : Desc} {t : Int} (h : Carries p d t) :
    d.canonical p ∧ sentTemp p d = t := by
  have hid := h.id
  have htp := h.tp
  have hlight := h.light
  have hpl : (d.tpp && d.pl) = d.pl := by
    cases htpp : d.tpp with
    | false => rw [htpp] at htp; rw [htp.2]; rfl
    | true => rfl
  have hfid : (if d.idp then d.fid else 0) = d.fid := by
    cases hidp : d.idp with
    | false =>
      rw [hidp] at hid
      rw [← id1_append_id0 d, hid.1, hid.2]
      rfl
    | true => rfl
  have htemp : sentTemp p d = t := by
    rw [sentTemp]
    cases htpp : d.tpp with
    | false => rw [htpp] at htp; exact htp.1.symm
    | true =>
      rw [htpp] at htp
      rw [if_pos rfl, h.ftemp, toInt_of_clampTemp hp htp]
      exact htp
  have hftemp : (normDesc p true d).ftemp = d.ftemp :=
    (carries_normDesc p true d h.sendable).ftemp.trans (htemp ▸ h.ftemp.symm)
  have hfambl : (if d.alp then d.fambl else 0) = d.fambl := by
    cases halp : d.alp with
    | false => rw [halp] at hlight; exact hlight.symm
    | true => rfl
  have hfflags : packFlags d.idp d.tpp d.alp (d.tpp && d.pl) (occWire true d) = d.fflags := by
    rw [hpl]
    exact packFlags_fields d
  refine ⟨⟨h.sendable, ?_⟩, htemp⟩
  calc normDesc p true d
    _ = ⟨(normDesc p true d).fflags, (normDesc p true d).fid, (normDesc p true d).ftemp,
          (normDesc p true d).fambl⟩ := rfl
    _ = d := by rw [hftemp]; simp only [normDesc, hfflags, hfid, hfambl]

end Sys2Proof.Proofs

/-! PROOFS. What `FSM.DEC` accepts (45_full_frame.md R250), the two frame commands one after the other (R252), and a frame
with one bit flipped (R253). -/

namespace Sys2Proof.Proofs

open Sys2Proof.Machine

/-! ## The frames the parser accepts (45_full_frame.md R252) -/

theorem frameBody_eq_withCrc (p : Params) (occTx : Bool) (d : Desc) :
    frameBody p occTx d = withCrc p (payload p occTx d) := rfl

/-- A frame at the head of a window is read as the normal form of its descriptor. -/
theorem parseFrame_frameBody (p : Params) (occTx : Bool) {d : Desc} (hd : d.unsendable = false) (rest : List Byte) :
    parseFrame p (frameBody p occTx d ++ rest) = some (normDesc p occTx d, (payload p occTx d).length) := by
  rw [frameBody_eq_withCrc, payload_eq_framePayload]
  exact parseFrame_append (carries_normDesc p occTx d hd) rest

/-- With the parameters in their ranges, what the parser accepts is the frame of the descriptor it gives, and that is in
normal form. -/
theorem canonical_of_parseFrame {p : Params} (hp : p.wf) {bytes : List Byte} {d : Desc} {n : Nat}
    (h : parseFrame p bytes = some (d, n)) :
    d.canonical p ∧ (frameBody p true d).length = n + 1 ∧ ∃ rest, bytes = frameBody p true d ++ rest := by
  obtain ⟨t, rest, hcarries, rfl, hbytes⟩ := eq_of_parseFrame h
  obtain ⟨hcanonical, htemp⟩ := hcarries.canonical hp
  have hpayload : payload p true d = framePayload p d t := by
    rw [payload_eq_framePayload, hcanonical.2, htemp]
  rw [frameBody_eq_withCrc, hpayload, withCrc_length]
  exact ⟨hcanonical, rfl, rest, hbytes⟩

/-! ## `FSM.DEC` (45_full_frame.md R250) -/

/-- The bytes a window begins with are in the buffer at `POS`. -/
theorem bufBytes_of_window {s : State} {m rest : List Byte} (h : s.window = m ++ rest) :
    m.length ≤ s.room ∧ bufBytes s s.pos.toNat m.length = m := by
  have hroom : m.length ≤ s.room := by
    rw [← window_length s, h, List.length_append]
    omega
  refine ⟨hroom, ?_⟩
  rw [← bufBytes_take s s.pos.toNat s.room _ hroom]
  exact (congrArg (List.take m.length) h).trans List.take_left

/-- What `FSM.DEC` makes of its window, from the bytes at `POS` and whatever follows them. -/
theorem parseFrame_window {s : State} {m : List Byte} {x : Option (Desc × Nat)} (hroom : m.length ≤ s.room)
    (hbytes : bufBytes s s.pos.toNat m.length = m) (hparse : ∀ rest, parseFrame s.params (m ++ rest) = x) :
    parseFrame s.params s.window = x := by
  rw [window_eq_append hroom, hbytes, hparse]

theorem exec_fsmDec_accept {s : State} {d : Desc} {n : Nat} (hw : s.badWindow = false)
    (hparse : parseFrame s.params s.window = some (d, n)) :
    exec .fsmDec s = .next { s with
      cmd := 0x31, fflags := d.fflags, fid := d.fid, ftemp := d.ftemp, fambl := d.fambl
      pos := BitVec.ofNat 8 (s.pos.toNat + (n + 1)), status := 0x01 } :=
  exec_of_success (.fsmDec (s := { s with cmd := encodeOpcode .fsmDec }) hw hparse)

theorem exec_fsmDec_reject {s : State} (hw : s.badWindow = false) (hparse : parseFrame s.params s.window = none) :
    exec .fsmDec s =
      .next { s with cmd := 0x31, fflags := 0, fid := 0, ftemp := 0, fambl := 0, status := 0x20 } :=
  exec_of_wire (.fsmDecWire (s := { s with cmd := encodeOpcode .fsmDec }) hw hparse)

/-- A frame decode that succeeded found a good window and a frame in it, and wrote these registers. -/
theorem eq_of_fsmDec {s t : State} (h : exec .fsmDec s = .next t) (hok : t.ok = true) :
    s.badWindow = false ∧ ∃ d n, parseFrame s.params s.window = some (d, n) ∧
      t = { s with
        cmd := 0x31, fflags := d.fflags, fid := d.fid, ftemp := d.ftemp, fambl := d.fambl
        pos := BitVec.ofNat 8 (s.pos.toNat + (n + 1)), status := 0x01 } := by
  obtain ⟨fin, u, hu, rfl⟩ := effect_of_exec_ok (o := .fsmDec) h hok
  cases hu with
  | fsmDec hw hparse => exact ⟨hw, _, _, hparse, rfl⟩

/-- The end offset of a frame decode does not wrap. -/
theorem toNat_pos_of_parseFrame {s : State} {d : Desc} {n : Nat} (hw : s.badWindow = false)
    (hparse : parseFrame s.params s.window = some (d, n)) :
    (BitVec.ofNat 8 (s.pos.toNat + (n + 1))).toNat = s.pos.toNat + (n + 1) :=
  toNat_pos_add hw (window_length s ▸ (length_of_parseFrame hparse).2)

/-- Settles O37: with a good window the choice is whether its bytes parse, and they do exactly when they begin with such
a frame. -/
theorem frameDecodeAcceptsExactlyTheFrames : Obligations.FrameDecodeAcceptsExactlyTheFrames := by
  intro s hp fits
  refine ⟨fun hwin d hfits => ?_, fun hwin hnone => ?_,
    fun hwin => exec_of_inval (.fsmDecInval (badWindow_of_not_goodWindow hwin))⟩
  · obtain ⟨⟨hd, hnorm⟩, hroom, hbytes⟩ := hfits
    rw [← frameBody_eq_frameOf] at hroom hbytes ⊢
    have hparse := parseFrame_window hroom hbytes (parseFrame_frameBody s.params true hd)
    rw [hnorm] at hparse
    rw [frameBody_eq_withCrc, withCrc_length]
    exact exec_fsmDec_accept (badWindow_of_goodWindow hwin) hparse
  · refine exec_fsmDec_reject (badWindow_of_goodWindow hwin) (Option.eq_none_iff_forall_ne_some.2 fun ⟨d, n⟩ hx => ?_)
    obtain ⟨hcanonical, -, rest, hbytes⟩ := canonical_of_parseFrame hp hx
    rw [frameBody_eq_frameOf] at hbytes
    exact hnone d ⟨hcanonical, bufBytes_of_window hbytes⟩

/-- One byte of a run that is in the buffer. -/
theorem bufRead_of_bufBytes {s : State} {off j : Nat} {vs : List Byte} (h : bufBytes s off vs.length = vs)
    (hj : j < vs.length) : bufRead s (off + j) = vs[j] := by
  rw [← bufBytes_getElem s off vs.length j (by rwa [bufBytes_length])]
  exact List.getElem_of_eq h _

/-- A run that is in the buffer already, written there again with one byte more: only that byte can change. -/
theorem bufRead_bufWriteList_again {s : State} {off : Nat} {vs : List Byte} (h : bufBytes s off vs.length = vs) (w : Byte)
    (a : Nat) :
    bufRead (bufWriteList off (vs ++ [w]) s) a = if a = off + vs.length then w else bufRead s a := by
  split
  next ha => rw [ha, (bufRead_bufWriteList_concat off vs w s).2]
  next ha =>
    rw [bufRead_bufWriteList]
    split
    next hin =>
      have hj : a - off < vs.length := by
        rw [List.length_append, List.length_singleton] at hin
        omega
      rw [List.getElem_append_left hj, ← bufRead_of_bufBytes h, Nat.add_sub_cancel' hin.1]
    next => rfl

/-! ## One command after the other (45_full_frame.md R252) -/

/-- A frame encode that succeeded moved `POS` to the byte after the CRC byte. -/
theorem toNat_pos_of_fsmEnc {s t : State} (h : exec .fsmEnc s = .next t) (hok : t.ok = true) :
    t.pos.toNat = s.pos.toNat + (frameBody s.params s.occTx s.desc).length := by
  obtain ⟨-, -, hpos⟩ := bufRead_of_fsmEnc h hok
  rw [frameBytes_eq_concat, List.length_append, List.length_singleton] at hpos
  omega

/-- The frame that was written, as the window from the old `POS` shows it. -/
theorem bufBytes_frameBody_of_fsmEnc {s t : State} (h : exec .fsmEnc s = .next t) (hok : t.ok = true) :
    bufBytes t s.pos.toNat (frameBody s.params s.occTx s.desc).length = frameBody s.params s.occTx s.desc := by
  rw [← bufBytes_take t _ _ _ (Nat.le_succ _), bufBytes_of_fsmEnc h hok, List.take_left]

/-- A frame that is in the buffer already, encoded there again: only the byte after it can change. -/
theorem bufRead_of_fsmEnc_again {s t : State} (h : exec .fsmEnc s = .next t) (hok : t.ok = true)
    (hthere : bufBytes s s.pos.toNat (frameBody s.params s.occTx s.desc).length = frameBody s.params s.occTx s.desc)
    (off : Nat) : bufRead t off = if off = t.pos.toNat then 0xFF else bufRead s off := by
  obtain ⟨-, hread, -⟩ := bufRead_of_fsmEnc h hok
  rw [hread, frameBytes_eq_concat, bufRead_bufWriteList_again hthere, ← toNat_pos_of_fsmEnc h hok]
  rfl

/-- Settles O38: the window from the old `POS` begins with the frame, and that reads back as the normal form. -/
theorem frameRoundTrip : Obligations.FrameRoundTrip := by
  intro s t lim _ h hok hlo hhi
  obtain ⟨-, -, -, heq⟩ := eq_of_fsmEnc h hok
  obtain ⟨hd, -, -⟩ := bufRead_of_fsmEnc h hok
  have hparams : t.params = s.params := by rw [heq]
  have hpos := toNat_pos_of_fsmEnc h hok
  have hw : State.badWindow { t with pos := s.pos, lim := lim } = false :=
    badWindow_eq_false.2 ⟨show s.pos.toNat ≤ lim.toNat by omega, hhi⟩
  have hroom : (frameBody s.params s.occTx s.desc).length ≤ State.room { t with pos := s.pos, lim := lim } :=
    show _ ≤ lim.toNat - s.pos.toNat by omega
  have hparse : parseFrame t.params (State.window { t with pos := s.pos, lim := lim }) =
      some (normDesc s.params s.occTx s.desc, (payload s.params s.occTx s.desc).length) :=
    parseFrame_window hroom (bufBytes_frameBody_of_fsmEnc h hok)
      fun rest => hparams ▸ parseFrame_frameBody s.params s.occTx hd rest
  refine ⟨_, exec_fsmDec_accept hw hparse, ok_of_status rfl, rfl, BitVec.eq_of_toNat_eq ?_⟩
  exact (toNat_pos_of_parseFrame hw hparse).trans (by rw [hpos, frameBody_eq_withCrc, withCrc_length])

/-- Settles O39: what was accepted is the frame of the descriptor it gave, so encoding that writes the bytes that are
there. -/
theorem decodedFrameEncodesToItself : Obligations.DecodedFrameEncodesToItself := by
  intro s t lim hp h hok hlo hhi
  obtain ⟨hw, d, n, hparse, heq⟩ := eq_of_fsmDec h hok
  obtain ⟨⟨hd, -⟩, hlength, rest, hwindow⟩ := canonical_of_parseFrame hp hparse
  obtain ⟨-, hbytes⟩ := bufBytes_of_window hwindow
  have hpos : t.pos.toNat = s.pos.toNat + (frameBody s.params true d).length := by
    rw [heq, hlength]
    exact toNat_pos_of_parseFrame hw hparse
  obtain ⟨r, hr⟩ : ∃ r : State, r = { t with pos := s.pos, lim := lim, cfg := 1 } := ⟨_, rfl⟩
  have hread (off : Nat) : bufRead r off = bufRead s off := by
    rw [hr, heq]
    rfl
  have hdesc : r.desc = d := by
    rw [hr, heq]
    rfl
  have hrpos : r.pos = s.pos := by rw [hr]
  have hframe : frameBody r.params r.occTx r.desc = frameBody s.params true d := by
    rw [hdesc, hr, heq]
    simp [State.occTx]
  have hrw : r.badWindow = false := by
    rw [hr]
    exact badWindow_eq_false.2 ⟨show s.pos.toNat ≤ lim.toNat by omega, hhi⟩
  have hroom : (frameBody r.params r.occTx r.desc).length + 1 ≤ r.room := by
    rw [hframe, hr]
    exact show _ ≤ lim.toNat - s.pos.toNat by omega
  obtain ⟨u, hu, huok⟩ := exec_fsmEnc_accept (by simp [hr, State.secCh]) hrw (hdesc ▸ hd) hroom
  have hupos : u.pos.toNat = t.pos.toNat := by rw [toNat_pos_of_fsmEnc hu huok, hframe, hrpos, hpos]
  have hthere : bufBytes r s.pos.toNat (frameBody s.params true d).length = frameBody s.params true d :=
    (List.map_congr_left fun off _ => hread off).trans hbytes
  refine ⟨u, hr ▸ hu, huok, BitVec.eq_of_toNat_eq hupos, fun off => ?_⟩
  rw [bufRead_of_fsmEnc_again hu huok (by rwa [hframe, hrpos]), hupos, hread]

/-! ## One flipped bit (45_full_frame.md R253) -/

/-- Two messages of the same length, each with its own CRC byte, do not differ in exactly one bit (43_crc7.md R205 (e)). -/
theorem withCrc_ne_flip (p : Params) (m m' : List Byte) {j k : Nat} (hk : k < 8) (hj : j < (withCrc p m).length) :
    withCrc p m' ≠ (withCrc p m).set j ((withCrc p m)[j] ^^^ BitVec.twoPow 8 k) := by
  intro h
  have hlength : m'.length = m.length := by simpa [withCrc_length] using congrArg List.length h
  by_cases hm : j < m.length
  · simp only [withCrc, List.set_append_left _ _ hm, List.getElem_append_left hm] at h
    obtain ⟨rfl, hcrc⟩ := List.append_inj h (by simpa using hlength)
    exact crcDetectsEverySingleBit p.fullCrcSeed m j k hm hk (crcByte_injective (List.singleton_inj.1 hcrc))
  · obtain rfl : j = m.length := by
      rw [withCrc_length] at hj
      omega
    simp only [withCrc, List.set_append_right _ _ (le_refl m.length), List.getElem_concat_length, Nat.sub_self,
      List.set_cons_zero] at h
    obtain ⟨rfl, hcrc⟩ := List.append_inj h hlength
    exact crc7Upd_flip_ne 0 _ hk (congrArg (crc7Upd 0) (List.singleton_inj.1 hcrc).symm)

/-- The buffer with bit `k` of the byte at `off` flipped. -/
def flipBit (off k : Nat) (s : State) : State := bufWrite off (bufRead s off ^^^ BitVec.twoPow 8 k) s

theorem bufRead_flipBit_of_ne {off a : Nat} (h : a ≠ off) (k : Nat) (s : State) :
    bufRead (flipBit off k s) a = bufRead s a := by
  rw [flipBit, bufRead_bufWrite, if_neg h]

/-- A message with its CRC byte, one bit of it flipped in the buffer, is not a message with its CRC byte. -/
theorem bufBytes_flipBit_ne {p : Params} {s : State} {start j k : Nat} {m : List Byte} (hk : k < 8)
    (hj : j < (withCrc p m).length) (h : bufBytes s start (withCrc p m).length = withCrc p m) (m' : List Byte) :
    bufBytes (flipBit (start + j) k s) start (withCrc p m).length ≠ withCrc p m' := by
  rw [flipBit, bufBytes_bufWrite, h, bufRead_of_bufBytes h hj]
  exact (withCrc_ne_flip p m m' hk hj).symm

/-- What is in the buffer where a window parses, and where its frame ends. -/
theorem bufBytes_of_parseFrame {p : Params} {s : State} {d : Desc} {n : Nat}
    (h : parseFrame p s.window = some (d, n)) :
    ∃ t, Carries p d t ∧ (withCrc p (framePayload p d t)).length = n + 1 ∧
      bufBytes s s.pos.toNat (withCrc p (framePayload p d t)).length = withCrc p (framePayload p d t) := by
  obtain ⟨t, rest, hcarries, rfl, hwindow⟩ := eq_of_parseFrame h
  exact ⟨t, hcarries, withCrc_length _ _, (bufBytes_of_window hwindow).2⟩

/-- Settles O41: both windows begin with a message and its CRC byte, and these are one bit apart. -/
theorem flippedFrameNeverKeepsItsLength : Obligations.FlippedFrameNeverKeepsItsLength := by
  intro s t t' off k h hok hlo hhi hk h' hok' hsame
  obtain ⟨hw, d, n, hparse, rfl⟩ := eq_of_fsmDec h hok
  obtain ⟨hw', d', n', hparse', rfl⟩ := eq_of_fsmDec h' hok'
  have hend := toNat_pos_of_parseFrame hw hparse
  have hend' := toNat_pos_of_parseFrame hw' hparse'
  simp only at hsame hhi
  rw [hsame, hend, bufWrite_pos] at hend'
  rw [hend] at hhi
  obtain ⟨x, -, hlength, hbytes⟩ := bufBytes_of_parseFrame hparse
  obtain ⟨x', -, hlength', hbytes'⟩ := bufBytes_of_parseFrame hparse'
  obtain ⟨j, rfl⟩ := Nat.exists_eq_add_of_le hlo
  rw [hlength', show n' + 1 = n + 1 by omega, ← hlength] at hbytes'
  exact bufBytes_flipBit_ne hk (by omega) hbytes _ hbytes'

/-! ### An encoded frame with one bit flipped -/

theorem idSection_ne_FF (idp : Bool) (id0 id1 : Byte) : ∀ v ∈ idSection idp id0 id1, v ≠ 0xFF := by
  cases idp with
  | false => nofun
  | true =>
    simp only [idSection, if_true, List.forall_mem_cons]
    exact ⟨encodeWire_ne_FF nofun nofun, encodeWire_ne_FF nofun nofun, nofun⟩

theorem tpSection_ne_FF (p : Params) (tpp : Bool) (t : Int) (pl : Bool) : ∀ v ∈ tpSection p tpp t pl, v ≠ 0xFF := by
  cases tpp with
  | false => nofun
  | true =>
    simp only [tpSection, if_true, List.forall_mem_cons]
    exact ⟨(tpPack_ne_FF p t pl).1, (tpPack_ne_FF p t pl).2, nofun⟩

theorem lightSection_ne_FF {alp : Bool} {level : Byte} (h : LightAccepted alp level) :
    ∀ v ∈ lightSection alp level, v ≠ 0xFF := by
  cases alp with
  | false => nofun
  | true =>
    simp only [lightSection, if_true, List.forall_mem_cons]
    exact ⟨h.2, nofun⟩

/-- No byte that a frame decode accepts is `0xFF` (30_encoding.md R121). -/
theorem Carries.ne_FF {p : Params} {d : Desc} {t : Int} (h : Carries p d t) :
    ∀ v ∈ withCrc p (framePayload p d t), v ≠ 0xFF := by
  simp only [withCrc, framePayload, List.forall_mem_append, List.forall_mem_cons]
  exact ⟨⟨encodeWire_ne_FF nofun nofun, idSection_ne_FF _ _ _, tpSection_ne_FF _ _ _ _,
    encodeWire_ne_FF nofun nofun, lightSection_ne_FF h.light⟩, crcByte_ne_FF _, nofun⟩

section FlippedFrame

variable {p : Params} {occTx : Bool} {d d' : Desc} {s : State} {start j k : Nat} {t' : Int}
  (hd : d.unsendable = false)
  (hframe : bufBytes s start (frameBody p occTx d).length = frameBody p occTx d)
  (hj : j < (frameBody p occTx d).length) (hk : k < 8) (hcarries : Carries p d' t')
  (haccepted : bufBytes (flipBit (start + j) k s) start (withCrc p (framePayload p d' t')).length =
    withCrc p (framePayload p d' t'))

include hframe hj hk hcarries haccepted in
/-- What is accepted ends before the terminator: it holds no `0xFF`, and it is not of the same length. -/
theorem flipped_is_shorter (hterm : bufRead s (start + (frameBody p occTx d).length) = 0xFF) :
    (withCrc p (framePayload p d' t')).length < (frameBody p occTx d).length := by
  obtain hlt | heq | hgt := Nat.lt_trichotomy (withCrc p (framePayload p d' t')).length (frameBody p occTx d).length
  · exact hlt
  · rw [heq] at haccepted
    exact absurd haccepted (bufBytes_flipBit_ne hk hj hframe _)
  · have hbyte := bufRead_of_bufBytes haccepted hgt
    rw [bufRead_flipBit_of_ne (by omega), hterm] at hbyte
    exact absurd hbyte.symm (hcarries.ne_FF _ (List.getElem_mem _))

include hd hframe hcarries haccepted in
/-- After a shorter frame comes a byte of the sent one. It is as sent: were it the flipped one, the bytes before it, all
as sent, would be a frame that the sent one begins with. So it is not `0xFF`. -/
theorem next_of_flipped_ne_FF (hshort : (withCrc p (framePayload p d' t')).length < (frameBody p occTx d).length) :
    bufRead (flipBit (start + j) k s) (start + (withCrc p (framePayload p d' t')).length) ≠ 0xFF := by
  have hnot : (withCrc p (framePayload p d' t')).length ≠ j := by
    intro hend
    have hprefix : (frameBody p occTx d).take j = withCrc p (framePayload p d' t') := by
      rw [← hframe, bufBytes_take _ _ _ _ (hend ▸ hshort.le), ← haccepted, hend]
      refine List.map_congr_left fun a ha => (bufRead_flipBit_of_ne ?_ k s).symm
      rw [List.mem_range'_1] at ha
      omega
    have hparse := parseFrame_append hcarries ((frameBody p occTx d).drop j)
    have hsent := parseFrame_frameBody p occTx hd []
    rw [← hprefix, List.take_append_drop] at hparse
    rw [List.append_nil, hparse] at hsent
    obtain ⟨-, hlength⟩ := Prod.mk.inj (Option.some.inj hsent)
    rw [frameBody_eq_withCrc, withCrc_length, withCrc_length, hlength] at hshort
    omega
  rw [bufRead_flipBit_of_ne (by omega), bufRead_of_bufBytes hframe hshort]
  exact frameBody_ne_FF hd _ (List.getElem_mem _)

end FlippedFrame

/-- Settles O42, by what the decoder makes of the window; if it accepts, the frame is shorter. -/
theorem flippedFrameFailsOrIsShorter : Obligations.FlippedFrameFailsOrIsShorter := by
  intro s t lim off k h hok hlo hhi hk hpos hlim
  obtain ⟨-, -, -, heq⟩ := eq_of_fsmEnc h hok
  obtain ⟨hd, -, -⟩ := bufRead_of_fsmEnc h hok
  have hend := toNat_pos_of_fsmEnc h hok
  obtain ⟨j, rfl⟩ := Nat.exists_eq_add_of_le hlo
  have hparams : t.params = s.params := by rw [heq]
  have hframe := bufBytes_frameBody_of_fsmEnc h hok
  have hterm : bufRead t (s.pos.toNat + (frameBody s.params s.occTx s.desc).length) = 0xFF :=
    hend ▸ (onlyTheTerminatorIsFF.1 s t h hok).2
  have hw : State.badWindow { flipBit (s.pos.toNat + j) k t with pos := s.pos, lim := lim } = false :=
    badWindow_eq_false.2 ⟨hpos, hlim⟩
  cases hparse : parseFrame t.params
      (State.window { flipBit (s.pos.toNat + j) k t with pos := s.pos, lim := lim }) with
  | none => exact ⟨_, exec_fsmDec_reject hw hparse, .inl rfl⟩
  | some x =>
    obtain ⟨d', n⟩ := x
    obtain ⟨t', hcarries, hlength, haccepted⟩ := bufBytes_of_parseFrame (hparams ▸ hparse)
    have hshort := flipped_is_shorter hframe (by omega) hk hcarries haccepted hterm
    have hnext := next_of_flipped_ne_FF hd hframe hcarries haccepted hshort
    have hupos := toNat_pos_of_parseFrame hw hparse
    rw [hlength] at hshort hnext
    refine ⟨_, exec_fsmDec_accept hw hparse, .inr ⟨ok_of_status rfl, ?_, ?_⟩⟩
    · exact hupos.trans_lt (by rw [hend]; exact Nat.add_lt_add_left hshort _)
    · simp only at hupos ⊢
      rw [hupos]
      exact hnext

end Sys2Proof.Proofs

/-! PROOFS. Failures (60_exceptions.md): which commands raise which code, what a failed command changes, and that every
instruction answers a next state. The ways a command can fail are the `.error` constructors of `CommandEffect`. -/

namespace Sys2Proof.Proofs

open Sys2Proof.Machine

/-! ## A failed command (60_exceptions.md R270, R276) -/

/-- The effect behind a command that failed. -/
theorem effect_of_exec_fail {o : Opcode} {s t : State} (h : exec o.instr s = .next t) (hfail : t.ok = false) :
    ∃ e u, CommandEffect { s with cmd := encodeOpcode o } o (.error e) u ∧ t = writeStatus (.error e) u := by
  obtain ⟨r, u, hu, rfl⟩ := effect_of_exec h
  cases r with
  | error e => exact ⟨e, u, hu, rfl⟩
  | ok fin => simp at hfail

theorem writeStatus_err_of_error (e : FailCode) (t : State) : (writeStatus (.error e) t).err = errCode e := by
  change (failStatus e).extractLsb' 4 4 = errCode e
  cases e <;> decide

theorem writeStatus_fin_of_error (e : FailCode) (t : State) : (writeStatus (.error e) t).fin = false :=
  Bool.eq_false_iff.2 fun hfin => nomatch (writeStatus_fin (.error e) t).1 hfin

/-- The commands that raise a failure code (the "raised by" column of 60_exceptions.md R270). -/
def RaisedBy : FailCode → Opcode → Prop
  | .inval, o => o ∈ [.mtpEnc, .mtpDec, .fsmEnc, .fsmDec, .stCommit, .stGet]
  | .wire, o => o ∈ [.mtpDec, .fsmDec]
  | .noSpace, o => o ∈ [.mtpEnc, .fsmEnc]
  | .badOp, o => ∃ op, o = .reserved op

/-- A command fails only with a code that the table gives it. -/
theorem CommandEffect.raisedBy {s t : State} {o : Opcode} {e : FailCode} (h : CommandEffect s o (.error e) t) :
    RaisedBy e o := by
  cases h with
  | reserved op => exact ⟨op, rfl⟩
  | _ => simp [RaisedBy]

/-- Settles O18, by the code that the failure raised. -/
theorem failureCodesByCommand : Obligations.FailureCodesByCommand := by
  intro o s t h hfail
  obtain ⟨e, u, hu, rfl⟩ := effect_of_exec_fail h hfail
  have hraised := hu.raisedBy
  rw [writeStatus_err_of_error]
  cases e with
  | inval => exact .inl ⟨rfl, hraised⟩
  | wire => exact .inr (.inl ⟨rfl, hraised⟩)
  | noSpace => exact .inr (.inr (.inl ⟨rfl, hraised⟩))
  | badOp => exact .inr (.inr (.inr ⟨rfl, hraised⟩))

/-- Before `STATUS` is written, a failure has emptied the descriptor (decoders) or put the sentinel in `Q` (`ST.GET`),
and no more. -/
theorem CommandEffect.eq_of_error {s t : State} {o : Opcode} {e : FailCode} (h : CommandEffect s o (.error e) t) :
    t = { s with
      fflags := if o = .mtpDec ∨ o = .fsmDec then 0 else s.fflags
      fid := if o = .mtpDec ∨ o = .fsmDec then 0 else s.fid
      ftemp := if o = .mtpDec ∨ o = .fsmDec then 0 else s.ftemp
      fambl := if o = .mtpDec ∨ o = .fsmDec then 0 else s.fambl
      q := if o = .stGet then 0x00FF else s.q } := by
  cases h with
  | mtpDecInval | mtpDecWire | fsmDecInval | fsmDecWire => simp [emptyDescriptor]
  | _ => simp

/-- Settles O19: `CMD` is written before the effect of the failure and `STATUS` after it. -/
theorem failedCommandChangesOnlyWhatR276Lists : Obligations.FailedCommandChangesOnlyWhatR276Lists := by
  intro o s t h hfail
  obtain ⟨e, u, hu, rfl⟩ := effect_of_exec_fail h hfail
  exact ⟨writeStatus_fin_of_error e u, congrArg (writeStatus (.error e)) hu.eq_of_error⟩

/-! ## Nothing stops the block (60_exceptions.md R277, R278) -/

theorem exec_command_total (o : Opcode) (s : State) : ∃ t, exec o.instr s = .next t := by
  obtain ⟨r, u, hu⟩ := commandEffect_total { s with cmd := encodeOpcode o } o
  exact ⟨_, exec_of_effect hu⟩

/-- A write to `CMD` runs a command, and any other bus write is a plain update of the state or nothing. -/
theorem exec_scriptWr_total (addr : Byte) (v : BusWord) (s : State) : ∃ t, exec (.scriptWr addr v) s = .next t := by
  cases hb : busTarget addr with
  | register r =>
    by_cases hr : r = .cmd
    · obtain rfl := eq_zero_of_busTarget_cmd (hr ▸ hb)
      obtain ⟨t, ht⟩ := exec_command_total (decodeOpcode (v.setWidth 8)) s
      exact ⟨t, (runOpcode_eq_exec _ s).trans ht⟩
    · exact ⟨_, exec_scriptWr_register hb hr v s⟩
  | buffer off => exact ⟨_, exec_scriptWr_buffer hb v s⟩
  | reserved => exact ⟨_, exec_scriptWr_reserved hb v s⟩

/-- Settles O16, by the kind of instruction. -/
theorem everyInstructionAnswersANextState : Obligations.EveryInstructionAnswersANextState := by
  intro i s
  obtain ⟨o, rfl⟩ | ⟨x, off, rfl⟩ | ⟨addr, v, rfl⟩ | ⟨addr, rfl⟩ := instr_cases i
  · exact exec_command_total o s
  · exact ⟨_, exec_wire x off s⟩
  · exact exec_scriptWr_total addr v s
  · exact ⟨_, rfl⟩

end Sys2Proof.Proofs

/-! PROOFS. A reset of a block in use (70_reset_and_hazards.md): what the step leaves, and how the four frame commands
answer right after it. -/

namespace Sys2Proof.Proofs

open Sys2Proof.Machine

theorem step_reset {s : State} {rest : List HostEvent} (h : s.pending = .reset :: rest) :
    step s = .next (resetBlock { s with pending := rest }) := by
  simp only [step, h]

/-! ## The state after a reset (10_state.md R55) -/

theorem regValue_resetBlock (r : Reg) (s : State) : regValue r (resetBlock s) = 0 := by
  cases r <;> rfl

theorem goodWindow_resetBlock (s : State) : goodWindow (resetBlock s) := by
  simp [goodWindow]

/-- The window is empty: `POS` and `LIM` are both 0. -/
theorem room_resetBlock (s : State) : (resetBlock s).room = 0 := rfl

/-- The descriptor has no section, so `FSM.ENC` refuses no field of it. -/
theorem not_refusedFields_resetBlock (s : State) : ¬ refusedFields (resetBlock s).desc := by
  rintro (⟨hidp, -⟩ | ⟨halp, -⟩)
  · simp [Desc.idp, State.desc] at hidp
  · simp [Desc.alp, State.desc] at halp

/-! ## The frame commands right after a reset (70_reset_and_hazards.md R303) -/

theorem exec_mtpEnc_resetBlock (s : State) :
    exec .mtpEnc (resetBlock s) = .next { resetBlock s with cmd := 0x20, status := 0x30 } := by
  obtain ⟨-, -, hnoSpace⟩ := trailerEncodeWritesThreeBytes (resetBlock s)
  exact hnoSpace (goodWindow_resetBlock s) (by simp)

theorem exec_fsmEnc_resetBlock (s : State) :
    exec .fsmEnc (resetBlock s) = .next { resetBlock s with cmd := 0x30, status := 0x30 } := by
  obtain ⟨-, -, hnoSpace, -⟩ := frameEncodeBuildsTheFrame (resetBlock s)
  refine hnoSpace (fun hbad => ?_) (by simp)
  obtain hsec | hwin | hfields := hbad
  · simp at hsec
  · exact hwin (goodWindow_resetBlock s)
  · exact not_refusedFields_resetBlock s hfields

theorem exec_mtpDec_resetBlock (s : State) :
    exec .mtpDec (resetBlock s) =
      .next { resetBlock s with cmd := 0x21, fflags := 0, fid := 0, ftemp := 0, fambl := 0, status := 0x20 } := by
  obtain ⟨-, hwire, -⟩ := trailerDecodeChecksAndExtracts (resetBlock s)
  exact hwire (goodWindow_resetBlock s) fun ⟨hroom, _⟩ => by simp at hroom

/-- An empty window holds no frame. -/
theorem parseFrame_window_eq_none {s : State} (hroom : s.room = 0) : parseFrame s.params s.window = none := by
  refine Option.eq_none_iff_forall_ne_some.2 fun ⟨d, n⟩ hparse => ?_
  obtain ⟨-, hlen⟩ := length_of_parseFrame hparse
  rw [window_length, hroom] at hlen
  omega

theorem exec_fsmDec_resetBlock (s : State) :
    exec .fsmDec (resetBlock s) =
      .next { resetBlock s with cmd := 0x31, fflags := 0, fid := 0, ftemp := 0, fambl := 0, status := 0x20 } :=
  exec_fsmDec_reject (badWindow_of_goodWindow (goodWindow_resetBlock s))
    (parseFrame_window_eq_none (room_resetBlock s))

/-- Settles O2: the step answers `resetBlock`, which leaves a good but empty window. -/
theorem resetKeepsStoreAndClearsRegisters : Obligations.ResetKeepsStoreAndClearsRegisters := by
  intro s rest hpending
  have hnv : SameNv s (resetBlock { s with pending := rest }) := sameNv_of_eq rfl
  have hnoDraw : NoDraw s (resetBlock { s with pending := rest }) := ⟨rfl, rfl⟩
  exact ⟨_, step_reset hpending, fun r => regValue_resetBlock r _, hnv, rfl, rfl, hnoDraw,
    ⟨_, exec_mtpEnc_resetBlock _, rfl⟩, ⟨_, exec_fsmEnc_resetBlock _, rfl⟩,
    ⟨_, exec_mtpDec_resetBlock _, rfl⟩, ⟨_, exec_fsmDec_resetBlock _, rfl⟩⟩

end Sys2Proof.Proofs
